-- ==== Sys2Proof/Word.lean ====
section
/-! DEFINITION. The bit-vector types of the CDC-FIFO/EP0 block (rule R8). Every quantity of the block is unsigned; the one
signed number, the answer of `sendBytes`, is an `Int` of `Config.lean`. Indices, counts and times are `Nat`. -/

namespace Sys2Proof

/-- A byte is 8 bits (R8): the contents of a cell, of a LineInfo register, of an endpoint FIFO. -/
abbrev Byte := BitVec 8

/-- A SETUP packet packed as R81 says: byte `k` of the wire at bits `8k+7:8k`. -/
abbrev SetupPacket := BitVec 64

/-- A byte sequence, first in time first (R8). -/
abbrev Bytes := List Byte

end Sys2Proof
end

