-- ==== Sys2Proof/Syntax.lean ====
section
/-! DEFINITION. The operations of the block (R96), the words its ports carry (R80, R90 to R94), and the picks of a schedule:
which agent moves next (R56) and what the environment does (R67 to R70), the lines of a trace (R97, R98). -/

namespace Sys2Proof

/-- Every operation of the block, one constructor per row of spec/opcode_table.json (R96). -/
inductive Instr where
  /-- RB_AVAIL (R113). -/
  | rbAvail
  /-- RB_WRITE (R116): `data` is `rb_data`. -/
  | rbWrite (data : Byte)
  /-- RB_READ (R118). -/
  | rbRead
  /-- RB_PEEK (R120). -/
  | rbPeek
  /-- RX_READY (R136). -/
  | rxReady
  /-- PUMP, one pass (R133). -/
  | pump
  /-- SETUP (R150): `packet` is `u_setup`. -/
  | setup (packet : SetupPacket)
  /-- GET_LINE_CODING (R156); the three fields are carried and not read. -/
  | getLineCoding (wValue wIndex wLength : BitVec 16)
  /-- SET_LINE_CODING (R160); the three fields are carried and not read. -/
  | setLineCoding (wValue wIndex wLength : BitVec 16)
  /-- SET_CONTROL_LINE_STATE (R163); only the low byte of `wValue` is read. -/
  | setControlLineState (wValue wIndex wLength : BitVec 16)
  /-- CTRL_UNHANDLED (R168): any packet that selects none of the three handled requests. -/
  | ctrlUnhandled (packet : SetupPacket)
  /-- OPEN (R180). -/
  | openPort
  /-- OPEN_CFG (R181); both operands are accepted and ignored. -/
  | openCfg (baud : BitVec 32) (cfg : BitVec 16)
  /-- CLOSE (R182). -/
  | closePort
  /-- AVAIL (R185). -/
  | avail
  /-- PEEK (R188). -/
  | peek
  /-- READ (R191). -/
  | read
  /-- WRITE (R197): `a_len` is the length of the payload (93_implementation_defined.md U17). -/
  | write (payload : Bytes)
  /-- FLUSH (R199). -/
  | flush
  /-- ISOPEN (R200). -/
  | isOpen
  /-- GETWERR (R203). -/
  | getWerr
  /-- CLRWERR (R204). -/
  | clrWerr
  /-- APP_RESERVED (R206): `op` is one of the codes 0xB to 0xF. -/
  | appReserved (op : BitVec 4)
deriving DecidableEq, Repr, Inhabited

/-- The format that carries an operation (R80, R96). -/
inductive Format where
  | rb | usbev | trig | setup | app
deriving DecidableEq, Repr

/-- The format column of R96. -/
def Instr.format : Instr → Format
  | .rbAvail => .rb
  | .rbWrite _ => .rb
  | .rbRead => .rb
  | .rbPeek => .rb
  | .rxReady => .usbev
  | .pump => .trig
  | .setup _ => .usbev
  | .getLineCoding _ _ _ => .setup
  | .setLineCoding _ _ _ => .setup
  | .setControlLineState _ _ _ => .setup
  | .ctrlUnhandled _ => .setup
  | .openPort => .app
  | .openCfg _ _ => .app
  | .closePort => .app
  | .avail => .app
  | .peek => .app
  | .read => .app
  | .write _ => .app
  | .flush => .app
  | .isOpen => .app
  | .getWerr => .app
  | .clrWerr => .app
  | .appReserved _ => .app

/-- A request on port A (R90): `a_op`, `a_baud`, `a_cfg`, `a_len`, `a_payload`. -/
structure AppRequest where
  aOp : BitVec 4
  aBaud : BitVec 32
  aCfg : BitVec 16
  aLen : Nat
  aPayload : Bytes
deriving DecidableEq, Repr, Inhabited

/-- An event on port U (R92): `u_ev`, `u_setup`. -/
structure UsbEvent where
  uEv : BitVec 2
  uSetup : SetupPacket
deriving DecidableEq, Repr, Inhabited

/-- A request on the internal port R (R94): `rb_op`, `rb_data`. The code alone says which agent issues it. -/
structure RbRequest where
  rbOp : BitVec 2
  rbData : Byte
deriving DecidableEq, Repr, Inhabited

/-- A word the block decodes, with the format that carries it (R80). -/
inductive PortWord where
  | app (r : AppRequest)
  | usb (e : UsbEvent)
  | rb (r : RbRequest)
  | setup (p : SetupPacket)
  | trig (req : Bool)
deriving DecidableEq, Repr, Inhabited

/-- The format of a word (R80). -/
def PortWord.format : PortWord → Format
  | .app _ => .app
  | .usb _ => .usbev
  | .rb _ => .rb
  | .setup _ => .setup
  | .trig _ => .trig

/-- The seven bytes of the `LC` format in wire order (R86). -/
structure LcBlock where
  d0 : Byte
  d1 : Byte
  d2 : Byte
  d3 : Byte
  d4 : Byte
  d5 : Byte
  d6 : Byte
deriving DecidableEq, Repr, Inhabited

/-- The block as a byte sequence, `d0` first. -/
def LcBlock.toBytes (b : LcBlock) : Bytes := [b.d0, b.d1, b.d2, b.d3, b.d4, b.d5, b.d6]

/-- One choice of the schedule: which agent takes a step (R56), or which step the environment takes (R67 to R70, R230).
An `…Op` pick is a whole operation with no other agent stepping in between, the grain of a trace (R97); a `…Micro` pick is one
labelled micro-step (R10). A pick that is not enabled changes nothing. -/
inductive Pick where
  /-- APP takes the next command of port A and runs it. -/
  | appOp
  /-- APP takes its next micro-step (taking a command, when idle). -/
  | appMicro
  /-- PUMP runs the pass that `pump_req` asks for. -/
  | pumpOp
  /-- PUMP takes its next micro-step. -/
  | pumpMicro
  /-- CTRL decodes the packet in hand and runs the request, or goes on with a waiting SET_LINE_CODING. -/
  | ctrlOp
  /-- CTRL takes its next micro-step. -/
  | ctrlMicro
  /-- The first event on port U that can be taken is taken. -/
  | usbOp
  /-- The primitive that stands on port R is run, if its agent is idle. -/
  | rbOp
  /-- ENV presents a command on port A. -/
  | presentApp (r : AppRequest)
  /-- ENV presents an event on port U; an RX_READY is the packet arrival (R67). -/
  | presentUsb (e : UsbEvent)
  /-- A primitive is presented on port R. -/
  | presentRb (r : RbRequest)
  /-- Packet arrival (R67) with the next packet of `rx_future`. -/
  | packet
  /-- Packet arrival (R67) with `P = p`, the trace line `ENV: PKT p` (R98). -/
  | pkt (p : Bytes)
  /-- Data arrival on `EP0` (R68), the trace line `ENV: DATA bs`. -/
  | data (bs : Bytes)
  /-- Tick (R70). -/
  | tick
  /-- Fire (R70). -/
  | fire
  /-- The port `rst` (R240). -/
  | rst
deriving DecidableEq, Repr, Inhabited

end Sys2Proof
end

