-- ==== Sys2Proof/Config.lean ====
section
/-! DEFINITION. The implementation parameters (R6), their constraints (R7), and the free values: what the spec leaves to the
environment, to the schedule, or open (93_implementation_defined.md U1, U19, U21). An `opaque` constant here has no body, so
nothing can be proved about its value. -/

namespace Sys2Proof

/-- The parameters of R6. A state carries its own `Params`, so that a claim over every state is a claim over every
configuration (R263); no step changes them. `RX_EP`, `TX_EP` and `EP0` are the type `Endpoint`. -/
structure Params where
  /-- Number of cells of `storage`. -/
  C : Nat
  resetBaud : BitVec 32
  resetCharFormat : Byte
  resetParity : Byte
  resetDataBits : Byte
  magicBaud : BitVec 32
  slcThreshold : Nat
  bootHoldoffMs : Nat
  settleMs : Nat
  resetDelayMs : Nat
  /-- Width of a WRITE length and of a WRITE result. -/
  lenW : Nat
  brGLC : Byte
  brSLC : Byte
  brSCLS : Byte
  rtD2H : Byte
  rtH2D : Byte
deriving DecidableEq, Repr

/-- The endpoints the collaborator calls name (R6): symbolic, pairwise distinct. -/
inductive Endpoint where
  | rx | tx | ep0
deriving DecidableEq, Repr

/-- The answer of `sendBytes` (R69, R197): `FAIL`, or a number, signed as R8 says. -/
inductive SendAnswer where
  | fail
  | count (r : Int)
deriving DecidableEq, Repr, Inhabited

/-- Length of the line-coding block, fixed by the wire layout (R6). -/
abbrev lcLen : Nat := 7

/-- `W`, the width of `head`, `tail` and a count: the least number of bits, at least one, that holds `0..C-1` (R6). -/
def Params.indexWidth (p : Params) : Nat := Nat.log2 (p.C - 1) + 1

/-- Whether a length fits `LENW` bits. The length 0 fits whatever the width. -/
def Params.lengthFits (p : Params) : Nat → Bool
  | 0 => true
  | n + 1 => decide (n + 1 < 2 ^ p.lenW)

/-- The constraints of R7 and of R6 on `LENW`; a block that breaks one is not a configuration (R212). -/
def Params.ok (p : Params) : Bool :=
  decide (2 ≤ p.C) && decide (lcLen ≤ p.slcThreshold) && decide (p.rtD2H ≠ p.rtH2D) && decide (1 ≤ p.lenW)

namespace Config

/-- `RESET_DELAY_MS`: OPEN, the spec gives no value (R6, 92_eei_decisions.md D20). -/
opaque openResetDelayMs : Nat

/-- `LENW` less one: OPEN, at least 1 (R6, 92_eei_decisions.md D32). -/
opaque openLenWLessOne : Nat

/-- The schedule where none is listed (R56, U21). -/
opaque freePick : Nat → Pick

/-- The answer of `sendBytes` where none is listed, before it is bounded by the length offered (R69). -/
opaque freeSend : Nat → SendAnswer

/-- The draw `early` of ISOPEN where none is listed (R200). -/
opaque freeEarly : Nat → Bool

/-- The packet that arrives where `rx_future` lists none (R67). -/
opaque freePacket : Nat → Bytes

/-- The contents of a cell that nothing has written since reset number `epoch` (R40, U1). -/
opaque freeCell (epoch cell : Nat) : Byte

end Config

/-- The defaults of R6, for given values of the two parameters that have none. -/
def Params.withOpen (resetDelayMs lenW : Nat) : Params where
  C := 1024
  resetBaud := 115200#32
  resetCharFormat := 0#8
  resetParity := 0#8
  resetDataBits := 8#8
  magicBaud := 1200#32
  slcThreshold := 7
  bootHoldoffMs := 500
  settleMs := 10
  resetDelayMs := resetDelayMs
  lenW := lenW
  brGLC := 0x21#8
  brSLC := 0x20#8
  brSCLS := 0x22#8
  rtD2H := 0xA1#8
  rtH2D := 0x21#8

/-- The default configuration: every default of R6, the open parameters left open. -/
def Params.default : Params := Params.withOpen Config.openResetDelayMs (Config.openLenWLessOne + 1)

end Sys2Proof
end

