-- ==== Sys2Proof/WellFormed.lean ====
section
/-! DEFINITION. Which operations and port words are well formed: the checks that a bare constructor does not make. -/

namespace Sys2Proof

/-- `a_op` 0xB to 0xF are the reserved codes (R91). -/
def reservedOp (op : BitVec 4) : Bool := decide (11 ≤ op.toNat)

/-- Bytes 0 and 1 of a packet are the given request type and request code (R84). -/
def hasCodes (packet : SetupPacket) (bmRequestType bRequest : Byte) : Bool :=
  packet.extractLsb' 0 8 == bmRequestType && packet.extractLsb' 8 8 == bRequest

/-- The packet selects none of rows 1 to 3 of R84. -/
def unrecognised (p : Params) (packet : SetupPacket) : Bool :=
  !hasCodes packet p.rtD2H p.brGLC && !hasCodes packet p.rtH2D p.brSLC && !hasCodes packet p.rtH2D p.brSCLS

/-- An operation has an encoding that stands for it: a WRITE length fits `LENW` bits (R90), an unhandled packet matches no
handled row (R88), a reserved command has a reserved code (R91), and a handled request is not hidden by an earlier row of R84
(with the default codes none is). -/
def Instr.wf (p : Params) : Instr → Bool
  | .write payload => p.lengthFits payload.length
  | .ctrlUnhandled packet => unrecognised p packet
  | .appReserved op => reservedOp op
  | .setLineCoding _ _ _ => !(p.rtH2D == p.rtD2H && p.brSLC == p.brGLC)
  | .setControlLineState _ _ _ => !(p.rtH2D == p.rtD2H && p.brSCLS == p.brGLC) && !(p.brSCLS == p.brSLC)
  | .rbAvail => true
  | .rbWrite _ => true
  | .rbRead => true
  | .rbPeek => true
  | .rxReady => true
  | .pump => true
  | .setup _ => true
  | .getLineCoding _ _ _ => true
  | .openPort => true
  | .openCfg _ _ => true
  | .closePort => true
  | .avail => true
  | .peek => true
  | .read => true
  | .flush => true
  | .isOpen => true
  | .getWerr => true
  | .clrWerr => true

/-- A port A request is well formed: a WRITE carries exactly `a_len` bytes, and the length fits (R90, R212). -/
def AppRequest.wf (p : Params) (r : AppRequest) : Bool :=
  r.aOp != 6#4 || (r.aPayload.length == r.aLen && p.lengthFits r.aLen)

end Sys2Proof
end

