-- ==== Sys2Proof/Decode.lean ====
section
/-! DEFINITION. Decoding and encoding (R80 to R95): total on every word, rejecting by name, and the encoder written from the
same tables. -/

namespace Sys2Proof

/-- Why a word is no operation. -/
inductive Reject where
  /-- `u_ev = 00`: no event (R92). -/
  | noEvent
  /-- `u_ev = 11`: reserved, ignored (R92, R95). -/
  | reservedEvent
  /-- A WRITE whose payload is not `a_len` bytes, or whose length does not fit `LENW` bits (R212, U17). -/
  | malformedWrite
  /-- `pump_req = 0`: no pass is asked for (R80). -/
  | noPassAsked
deriving DecidableEq, Repr

/-! ### The SETUP format (R81 to R85) -/

/-- `bmRequestType = ctl_setup[7:0]` (R81). -/
def bmRequestType (p : SetupPacket) : Byte := p.extractLsb' 0 8

/-- `bRequest = ctl_setup[15:8]` (R81). -/
def bRequest (p : SetupPacket) : Byte := p.extractLsb' 8 8

/-- `wValue = ctl_setup[31:16]` (R81). -/
def wValue (p : SetupPacket) : BitVec 16 := p.extractLsb' 16 16

/-- `wIndex = ctl_setup[47:32]` (R81). -/
def wIndex (p : SetupPacket) : BitVec 16 := p.extractLsb' 32 16

/-- `wLength = ctl_setup[63:48]` (R81). -/
def wLength (p : SetupPacket) : BitVec 16 := p.extractLsb' 48 16

/-- The low byte of a value field (R85). -/
def lowByte (v : BitVec 16) : Byte := v.extractLsb' 0 8

/-- The operand of SET_CONTROL_LINE_STATE, `ctl_setup[23:16]` (R85). -/
def lineStateOperand (p : SetupPacket) : Byte := lowByte (wValue p)

/-- The five fields packed into a packet (R81). -/
def packFields (bmRequestType bRequest : Byte) (wValue wIndex wLength : BitVec 16) : SetupPacket :=
  wLength ++ wIndex ++ wValue ++ bRequest ++ bmRequestType

/-- The eight bytes of the wire packed into a packet, byte `k` at bits `8k+7:8k` (R81). -/
def packSetup (b0 b1 b2 b3 b4 b5 b6 b7 : Byte) : SetupPacket := b7 ++ b6 ++ b5 ++ b4 ++ b3 ++ b2 ++ b1 ++ b0

/-- The dispatch of R151: the rows of R84 tested in order, first match wins. -/
def decodeSetup (p : Params) (w : SetupPacket) : Instr :=
  if bmRequestType w = p.rtD2H ∧ bRequest w = p.brGLC then .getLineCoding (wValue w) (wIndex w) (wLength w)
  else if bmRequestType w = p.rtH2D ∧ bRequest w = p.brSLC then .setLineCoding (wValue w) (wIndex w) (wLength w)
  else if bmRequestType w = p.rtH2D ∧ bRequest w = p.brSCLS then .setControlLineState (wValue w) (wIndex w) (wLength w)
  else .ctrlUnhandled w

/-! ### Ports A, U, R and the trigger (R91, R92, R94, R80) -/

/-- The table of R91. -/
def decodeApp (p : Params) (r : AppRequest) : Except Reject Instr :=
  match r.aOp.toNat with
  | 0 => .ok .openPort
  | 1 => .ok (.openCfg r.aBaud r.aCfg)
  | 2 => .ok .closePort
  | 3 => .ok .avail
  | 4 => .ok .peek
  | 5 => .ok .read
  | 6 => if r.aPayload.length = r.aLen ∧ p.lengthFits r.aLen = true then .ok (.write r.aPayload) else .error .malformedWrite
  | 7 => .ok .flush
  | 8 => .ok .isOpen
  | 9 => .ok .getWerr
  | 10 => .ok .clrWerr
  | _ => .ok (.appReserved r.aOp)

/-- The table of R92. -/
def decodeUsb (e : UsbEvent) : Except Reject Instr :=
  match e.uEv.toNat with
  | 0 => .error .noEvent
  | 1 => .ok .rxReady
  | 2 => .ok (.setup e.uSetup)
  | _ => .error .reservedEvent

/-- The table of R94; all four codes are used. -/
def decodeRb (r : RbRequest) : Instr :=
  match r.rbOp.toNat with
  | 0 => .rbAvail
  | 1 => .rbWrite r.rbData
  | 2 => .rbRead
  | _ => .rbPeek

/-- The decoder (R80): total on every word. -/
def decode (p : Params) : PortWord → Except Reject Instr
  | .app r => decodeApp p r
  | .usb e => decodeUsb e
  | .rb r => .ok (decodeRb r)
  | .setup w => .ok (decodeSetup p w)
  | .trig req => if req then .ok .pump else .error .noPassAsked

/-! ### The encoder -/

/-- A port A request with code `op` and every operand zero. -/
def appWord (op : BitVec 4) : AppRequest := ⟨op, 0#32, 0#16, 0, []⟩

/-- The port A request of an `APP` operation (R91); an operand the operation does not read is zero. -/
def encodeApp : Instr → AppRequest
  | .openCfg baud cfg => ⟨0x1#4, baud, cfg, 0, []⟩
  | .closePort => appWord 0x2#4
  | .avail => appWord 0x3#4
  | .peek => appWord 0x4#4
  | .read => appWord 0x5#4
  | .write payload => ⟨0x6#4, 0#32, 0#16, payload.length, payload⟩
  | .flush => appWord 0x7#4
  | .isOpen => appWord 0x8#4
  | .getWerr => appWord 0x9#4
  | .clrWerr => appWord 0xA#4
  | .appReserved op => appWord op
  | _ => appWord 0x0#4

/-- The word of an operation, in its own format. -/
def encode (p : Params) : Instr → PortWord
  | .rbAvail => .rb ⟨0b00#2, 0#8⟩
  | .rbWrite b => .rb ⟨0b01#2, b⟩
  | .rbRead => .rb ⟨0b10#2, 0#8⟩
  | .rbPeek => .rb ⟨0b11#2, 0#8⟩
  | .rxReady => .usb ⟨0b01#2, 0#64⟩
  | .pump => .trig true
  | .setup packet => .usb ⟨0b10#2, packet⟩
  | .getLineCoding v x n => .setup (packFields p.rtD2H p.brGLC v x n)
  | .setLineCoding v x n => .setup (packFields p.rtH2D p.brSLC v x n)
  | .setControlLineState v x n => .setup (packFields p.rtH2D p.brSCLS v x n)
  | .ctrlUnhandled packet => .setup packet
  | .openPort => .app (encodeApp .openPort)
  | .openCfg baud cfg => .app (encodeApp (.openCfg baud cfg))
  | .closePort => .app (encodeApp .closePort)
  | .avail => .app (encodeApp .avail)
  | .peek => .app (encodeApp .peek)
  | .read => .app (encodeApp .read)
  | .write payload => .app (encodeApp (.write payload))
  | .flush => .app (encodeApp .flush)
  | .isOpen => .app (encodeApp .isOpen)
  | .getWerr => .app (encodeApp .getWerr)
  | .clrWerr => .app (encodeApp .clrWerr)
  | .appReserved op => .app (encodeApp (.appReserved op))

/-- The word with every field that its operation does not carry set to zero: port A operands (R91), the packet of an RX_READY
(R92), the byte of a primitive other than RB_WRITE (R94). Two words with one canonical form are the same operation. -/
def PortWord.canonical : PortWord → PortWord
  | .app r =>
    match r.aOp.toNat with
    | 1 => .app ⟨r.aOp, r.aBaud, r.aCfg, 0, []⟩
    | 6 => .app ⟨r.aOp, 0#32, 0#16, r.aLen, r.aPayload⟩
    | _ => .app (appWord r.aOp)
  | .usb e => if e.uEv = 0b10#2 then .usb e else .usb ⟨e.uEv, 0#64⟩
  | .rb r => if r.rbOp = 0b01#2 then .rb r else .rb ⟨r.rbOp, 0#8⟩
  | .setup w => .setup w
  | .trig req => .trig req

/-! ### Words as spec/opcode_table.json numbers them -/

/-- The port word of a table row's bits, the operands beside the code zero. The table's row is its format's field alone, and
the four short formats share the same numbers; a word does not say which port it stands on. 64 bits are a SETUP packet, 4 bits
(and a whole byte) a port A code, 2 bits a port R code, 1 bit the trigger (notes/assumptions/4.md). -/
def tableWord (nbits w : Nat) : Option PortWord :=
  if nbits = 64 then some (.setup (BitVec.ofNat 64 w))
  else if nbits = 4 ∨ nbits = 8 then if w < 16 then some (.app (appWord (BitVec.ofNat 4 w))) else none
  else if nbits = 2 then if w < 4 then some (.rb ⟨BitVec.ofNat 2 w, 0#8⟩) else none
  else if nbits = 1 then if w < 2 then some (.trig (w == 1)) else none
  else none

/-- The operation the decoder reads from a row's bits, with the default configuration. -/
def decodeTableWord (nbits w : Nat) : Option Instr :=
  match tableWord nbits w with
  | some word => (decode Params.default word).toOption
  | none => none

end Sys2Proof
end

