-- ==== Sys2Proof/Machine/State.lean ====
section
/-! DEFINITION. The state of the block (R20), of the collaborators it sees through calls (R37), and of the model's own inputs
(the schedule and the answers of the environment, which R38 calls free inputs); its value after reset (R40); the two ways a
step stops. Plain data throughout. -/

namespace Sys2Proof.Machine

/-- Cells by number, strictly rising, a cell that nothing has written since reset not listed. -/
abbrev Memory := List Host.Cell

/-- The Ring Buffer (R21 to R23): PUMP writes `storage` and `head`, APP writes `tail`. -/
structure Ring where
  storage : Memory
  head : Nat
  tail : Nat
deriving DecidableEq, Repr

/-- LineInfo (R25 to R31), owned by CTRL. -/
structure LineInfo where
  dwDTERate : BitVec 32
  bCharFormat : Byte
  bParityType : Byte
  bDataBits : Byte
  lineState : Byte
deriving DecidableEq, Repr

/-- The label of the next micro-step of a running pass (R34, R133). -/
inductive PumpLabel where
  | u1 | u2 | u3 | u4 | u5 | u6
deriving DecidableEq, Repr

/-- `pump_phase` (R34). -/
inductive PumpPhase where
  | idle
  | run (label : PumpLabel)
deriving DecidableEq, Repr

/-- PUMP: the latch `pump_req` (R33), `pump_phase` (R34), `pump_next` and `pump_byte` (R36). -/
structure Pump where
  req : Bool
  phase : PumpPhase
  nextIndex : Nat
  byte : Byte
deriving DecidableEq, Repr

/-- The label of the next micro-step of the request in hand (R150, R156, R160, R163, R168). -/
inductive CtlLabel where
  | t2 | g1 | g2 | s1 | s3 | s4 | s5 | l1 | l2 | l3 | n1
deriving DecidableEq, Repr

/-- `ctl_phase` (R34); the label is part of DISPATCH. -/
inductive CtlPhase where
  | idle
  | dispatch (label : CtlLabel)
  | waitFifo
deriving DecidableEq, Repr

/-- CTRL: `ctl_phase` (R34), `ctl_setup` (R35), and the seven bytes `d[0..6]` that S3 pulls for S4 (R160). -/
structure Ctl where
  phase : CtlPhase
  setup : SetupPacket
  pulled : LcBlock
deriving DecidableEq, Repr

/-- `app_phase` with APP's locals (R34): the label of the next micro-step of the command in hand. A Ring Buffer primitive's
own micro-steps stand in place of the step that issues it (R183). -/
inductive AppPhase where
  | idle
  /-- The command is taken, its first micro-step is next: A1, or V1, K1, D1 of its primitive. -/
  | taken (i : Instr)
  | peekK2
  | readD2
  | readD3 (v : Byte)
  | readA2 (r : Option Byte)
  | readA3 (v : Byte)
  | readA4 (v : Byte)
  | writeA2 (r : SendAnswer)
  | isOpenA2
  /-- `sample` is the line state sampled early, or none where it is sampled late (R200). -/
  | isOpenA3 (sample : Option Byte)
  /-- The delay that began at `t0` is running. -/
  | isOpenA4 (t0 : Nat) (sample : Option Byte)
deriving DecidableEq, Repr

/-- The collaborators' state (R37). -/
structure Env where
  rxq : Bytes
  rxReleased : Bool
  rxFuture : List Bytes
  ep0q : Bytes
  ctlIn : List Bytes
  txlog : Bytes
  txFlushes : Nat
  nowMs : Nat
  rstPending : Bool
  rstDeadline : Nat
deriving DecidableEq, Repr

/-- A response of port A (R90, R91). -/
inductive AppResponse where
  | nothing
  | count (n : Nat)
  | optByte (r : Option Byte)
  | sent (n : Nat)
  | flag (b : Bool)
  | err (b : Bool)
deriving DecidableEq, Repr

/-- A response of port R (R94). -/
inductive RbResponse where
  | count (n : Nat)
  | ok (b : Bool)
  | opt (r : Option Byte)
deriving DecidableEq, Repr

/-- The ports as the model records them: the requests and events that stand on A, U and R and are not yet taken (R90, U18),
oldest first, and the responses given since reset, oldest first. The output `stall` is `State.stall`. -/
structure Ports where
  portA : List AppRequest
  portU : List UsbEvent
  portR : List RbRequest
  respA : List AppResponse
  respU : List Bool
  respR : List RbResponse
deriving DecidableEq, Repr

/-- The model's own inputs, which the spec leaves to ENV and to the schedule (R38, U21): the picks to come, the answers of
`sendBytes` to come, the draws `early` to come; where a list is used up the value is a free value of `Config`, the `draws`-th.
`epoch` counts the resets, and numbers the unspecified contents of `storage` after each. -/
structure Drive where
  schedule : List Pick
  sendAnswers : List SendAnswer
  earlyDraws : List Bool
  draws : Nat
  epoch : Nat
deriving DecidableEq, Repr

/-- The whole machine. -/
structure State where
  params : Params
  ring : Ring
  line : LineInfo
  writeError : Bool
  pump : Pump
  ctl : Ctl
  app : AppPhase
  env : Env
  ports : Ports
  drive : Drive
deriving DecidableEq, Repr

/-- Why the machine stops with a fault. Each is safe: the hardware has no such run. -/
inductive Fault where
  /-- `MemRead` or `MemWrite` of a cell number not in `0..C-1` (R10, R21). Raised by RB_READ, RB_PEEK, RB_WRITE and the
  pump's U4, only in a state whose indices are out of range (R24 excludes it). -/
  | noSuchCell
  /-- `receiveByte` on an endpoint that holds no byte (R66, R212, U3). Raised by the pump's U3 and CTRL's S3, in states that
  no run reaches. -/
  | receiveByteEmpty
  /-- `sendBytes` answered a count above the length offered (U7). Raised by WRITE, only on an answer listed in `Drive`. -/
  | sentMoreThanOffered
deriving DecidableEq, Repr

/-- Why the machine refuses a step. Each is safe: nothing is claimed of such a step. -/
inductive Refusal where
  /-- The operation has no meaning in the model yet. Raised by `exec`. -/
  | notModelled (mnemonic : String)
  /-- The parameters break a constraint of R7: not a configuration of the block (R212, U15). Raised by `step`. -/
  | badConfiguration
  /-- A WRITE whose payload is not `a_len` bytes (R212, U17). Raised when APP takes the request. -/
  | malformedRequest
deriving DecidableEq, Repr

/-- The reset values of the Ring Buffer (R40): empty, no cell written. -/
def Ring.reset : Ring := ⟨[], 0, 0⟩

/-- The reset values of LineInfo (R40). -/
def LineInfo.reset (p : Params) : LineInfo := ⟨p.resetBaud, p.resetCharFormat, p.resetParity, p.resetDataBits, 0#8⟩

/-- PUMP idle, no pass asked for (R40); the two locals, which R40 leaves unspecified, zero (notes/assumptions/6.md). -/
def Pump.reset : Pump := ⟨false, .idle, 0, 0#8⟩

/-- CTRL idle (R40); the packet and the pulled bytes, which R40 leaves unspecified, zero (notes/assumptions/6.md). -/
def Ctl.reset : Ctl := ⟨.idle, 0#64, ⟨0#8, 0#8, 0#8, 0#8, 0#8, 0#8, 0#8⟩⟩

/-- The collaborators after reset (R40), `rx_future` being a free input that a reset does not touch (R38); the deadline, which
R40 leaves unspecified while nothing is pending, zero (notes/assumptions/6.md). -/
def Env.resetWith (future : List Bytes) : Env := ⟨[], true, future, [], [], [], 0, 0, false, 0⟩

/-- The machine after power-on with parameters `p` (R40): nothing presented, nothing scheduled. -/
def State.resetWith (p : Params) : State where
  params := p
  ring := Ring.reset
  line := LineInfo.reset p
  writeError := false
  pump := Pump.reset
  ctl := Ctl.reset
  app := .idle
  env := Env.resetWith []
  ports := ⟨[], [], [], [], [], []⟩
  drive := ⟨[], [], [], 0, 0⟩

/-- The machine after reset with the default configuration (R40, R6). -/
def State.reset : State := State.resetWith Params.default

end Sys2Proof.Machine
end

