-- ==== Sys2Proof/Machine/Ops.lean ====
section
/-! DEFINITION. The operations every meaning is built from: indices and cells of the Ring Buffer (R9, R10, R111), register
writes, responses, the taking of a command, of a request and of an event (R90, R217), the stall (R216), and the reset (R240,
R241), the one thing that cuts an operation short. No condition of R210 transfers control, so there is no trap entry. -/

namespace Sys2Proof.Machine

abbrev Outcome := Host.Outcome State Fault Refusal

/-- Run `f` on the next state, if there is one. -/
def andThen (o : Outcome) (f : State → Outcome) : Outcome :=
  match o with
  | .next t => f t
  | .fault e => .fault e
  | .refused e => .refused e

/-- Run `f` on a call's result, or stop with the call's fault. -/
def withResult {α : Type} (r : Except Fault (α × State)) (f : α → State → Outcome) : Outcome :=
  match r with
  | .ok (a, t) => f a t
  | .error e => .fault e

/-! ### Cells and indices -/

/-- The byte listed for a cell, if any. -/
def Memory.get? : Memory → Nat → Option Byte
  | [], _ => none
  | (k, v) :: rest, a => if k = a then some v else Memory.get? rest a

/-- Write a cell, keeping the list strictly rising. -/
def Memory.put : Memory → Nat → Byte → Memory
  | [], a, b => [(a, b)]
  | (k, v) :: rest, a, b =>
    if a < k then (a, b) :: (k, v) :: rest
    else if a = k then (a, b) :: rest
    else (k, v) :: Memory.put rest a b

/-- The canonical form of a memory: cell numbers strictly rising. A cell that nothing has written has no value, so no listed
entry can equal what an unlisted cell reads as. -/
def Memory.wf : Memory → Bool
  | [] => true
  | [_] => true
  | (a, _) :: (b, v) :: rest => decide (a < b) && Memory.wf ((b, v) :: rest)

/-- The index successor `inc(i) = (i + 1) mod C` (R9). -/
def inc (C i : Nat) : Nat := (i + 1) % C

/-- `empty = (head == tail)` (R111). -/
def State.empty (s : State) : Bool := s.ring.head == s.ring.tail

/-- `full = (inc(head) == tail)` (R111). -/
def State.full (s : State) : Bool := inc s.params.C s.ring.head == s.ring.tail

/-- `avail = (C + head - tail) mod C` (R111). -/
def State.avail (s : State) : Nat := (s.params.C + s.ring.head - s.ring.tail) % s.params.C

/-- `room = not full` (R111). -/
def State.room (s : State) : Bool := !s.full

/-- The value of a cell: what was last stored there, or, where nothing was since reset, a free value (R40, U1). -/
def State.cell (s : State) (a : Nat) : Byte :=
  match s.ring.storage.get? a with
  | some v => v
  | none => Config.freeCell s.drive.epoch a

/-- `MemRead(a, 1)` (R10). -/
def State.memRead (s : State) (a : Nat) : Except Fault Byte :=
  if a < s.params.C then .ok (s.cell a) else .error .noSuchCell

/-- `MemWrite(a, 1, v)` (R10). -/
def State.memWrite (s : State) (a : Nat) (v : Byte) : Except Fault State :=
  if a < s.params.C then .ok { s with ring := { s.ring with storage := s.ring.storage.put a v } } else .error .noSuchCell

/-- `head <- n` (R22). -/
def State.setHead (s : State) (n : Nat) : State := { s with ring := { s.ring with head := n } }

/-- `tail <- n` (R23). -/
def State.setTail (s : State) (n : Nat) : State := { s with ring := { s.ring with tail := n } }

/-! ### Sequencing registers -/

/-- `pump_phase <- ph` (R34). -/
def State.setPumpPhase (s : State) (ph : PumpPhase) : State := { s with pump := { s.pump with phase := ph } }

/-- `pump_next := n` (R36). -/
def State.setPumpNext (s : State) (n : Nat) : State := { s with pump := { s.pump with nextIndex := n } }

/-- `pump_byte := b` (R36). -/
def State.setPumpByte (s : State) (b : Byte) : State := { s with pump := { s.pump with byte := b } }

/-- `ctl_phase <- ph` (R34). -/
def State.setCtlPhase (s : State) (ph : CtlPhase) : State := { s with ctl := { s.ctl with phase := ph } }

/-- `app_phase` goes to `ph` (R34). -/
def State.setApp (s : State) (ph : AppPhase) : State := { s with app := ph }

/-- The output `stall`: 1 exactly while `ctl_phase = WAIT_FIFO` (R216). -/
def State.stall (s : State) : Bool := s.ctl.phase == .waitFifo

/-- APP can take a command: idle and not stalled (R90, R183). -/
def State.appReady (s : State) : Bool := s.app == .idle && !s.stall

/-- PUMP is idle and not stalled (R133, R216). -/
def State.pumpReady (s : State) : Bool := s.pump.phase == .idle && !s.stall

/-- CTRL has a packet in hand that it has not decoded yet: T2 is next (R150). -/
def State.ctlReady (s : State) : Bool := s.ctl.phase == .dispatch .t2

/-! ### Responses -/

/-- A response on port A. -/
def State.respondA (s : State) (r : AppResponse) : State := { s with ports := { s.ports with respA := s.ports.respA ++ [r] } }

/-- `u_handled` on port U (R152). -/
def State.respondU (s : State) (handled : Bool) : State := { s with ports := { s.ports with respU := s.ports.respU ++ [handled] } }

/-- A response on port R. -/
def State.respondR (s : State) (r : RbResponse) : State := { s with ports := { s.ports with respR := s.ports.respR ++ [r] } }

/-- The last micro-step of a command: APP idle again, the response given (R218). -/
def State.appReturn (s : State) (r : AppResponse) : State := (s.setApp .idle).respondA r

/-- The last micro-step of a request: `ctl_phase <- IDLE; return handled` (R152). -/
def State.ctlReturn (s : State) (handled : Bool) : State := (s.setCtlPhase .idle).respondU handled

/-! ### Taking a command, a request, an event (R90, R217), or leaving it to wait (U18) -/

/-- The requests that stand on port A, `ps`. -/
def State.setPortA (s : State) (ps : List AppRequest) : State := { s with ports := { s.ports with portA := ps } }

/-- The events that stand on port U, `ps`. -/
def State.setPortU (s : State) (ps : List UsbEvent) : State := { s with ports := { s.ports with portU := ps } }

/-- The primitives that stand on port R, `ps`. -/
def State.setPortR (s : State) (ps : List RbRequest) : State := { s with ports := { s.ports with portR := ps } }

/-- A command of port A is taken and run by `k` if APP is idle and there is no stall; otherwise it waits on the port. -/
def takeApp (i : Instr) (s : State) (k : State → Outcome) : Outcome :=
  if s.appReady then k s else .next (s.setPortA (encodeApp i :: s.ports.portA))

/-- A request of endpoint 0, in hand and decoded, is run by `k`; where CTRL has none to decode it waits as a SETUP event. -/
def takeCtl (w : SetupPacket) (s : State) (k : State → Outcome) : Outcome :=
  if s.ctlReady then k s else .next (s.setPortU (⟨0b10#2, w⟩ :: s.ports.portU))

/-- A primitive of port R is run by `k` if its agent is ready; otherwise it waits on the port. -/
def takeRb (ready : Bool) (r : RbRequest) (s : State) (k : State → Outcome) : Outcome :=
  if ready then k s else .next (s.setPortR (r :: s.ports.portR))

/-! ### Reset -/

/-- The reset, whatever its cause (R240, R241): every element of R40 at its reset value, the responses of the operations in
hand never given (R243). The parameters, the inputs still to come, and what stands on the ports are outside the block and
stay; the contents of `storage` are unspecified anew. -/
def State.resetBlock (s : State) : State where
  params := s.params
  ring := Ring.reset
  line := LineInfo.reset s.params
  writeError := false
  pump := Pump.reset
  ctl := Ctl.reset
  app := .idle
  env := Env.resetWith s.env.rxFuture
  ports := { s.ports with respA := [], respU := [], respR := [] }
  drive := { s.drive with epoch := s.drive.epoch + 1 }

end Sys2Proof.Machine
end

