-- ==== Sys2Proof/Machine/Flags.lean ====
section
/-! DEFINITION. The two flags of the block (R42): the sticky `writeError` (R32) and the latch `pump_req` (R33). No operation
computes any other flag. -/

namespace Sys2Proof.Machine

/-- `writeError <- 1` (R197). -/
def State.markWriteError (s : State) : State := { s with writeError := true }

/-- `writeError <- 0` (R204). -/
def State.clearWriteError (s : State) : State := { s with writeError := false }

/-- `pump_req <- 1`; idempotent (R132). -/
def State.askPass (s : State) : State := { s with pump := { s.pump with req := true } }

/-- `pump_req <- 0`, the work of U0 alone (R132). -/
def State.takePass (s : State) : State := { s with pump := { s.pump with req := false } }

/-- The result of a send that WRITE takes as a failure: `FAIL`, zero, or a negative number (R197). -/
def sendFailed : SendAnswer → Bool
  | .fail => true
  | .count r => decide (r ≤ 0)

/-- The number of bytes a send accepted (R69): none on a failure. -/
def sendAccepted : SendAnswer → Nat
  | .fail => 0
  | .count r => r.toNat

end Sys2Proof.Machine
end

