-- ==== Sys2Proof/Machine/Collaborators.lean ====
section
/-! DEFINITION. The eleven collaborator calls (R226, R227), answered as R66 to R70 model them, and the draws of the environment
that they make. -/

namespace Sys2Proof.Machine

/-- Replace the collaborators' state. -/
def State.setEnv (s : State) (e : Env) : State := { s with env := e }

/-! ### Draws: from the list in `Drive`, or, where it is used up, a free value -/

/-- Count one draw of a free value. -/
def State.countDraw (s : State) : State := { s with drive := { s.drive with draws := s.drive.draws + 1 } }

/-- A count bounded to `0..n` (R69). -/
def boundAnswer (n : Nat) : SendAnswer → SendAnswer
  | .fail => .fail
  | .count r => .count ((r.toNat % (n + 1) : Nat) : Int)

/-- `draw r in {FAIL} ∪ {0..n}` (R69). A listed answer above `n` is a fault (U7). -/
def drawSend (n : Nat) (s : State) : Except Fault (SendAnswer × State) :=
  match s.drive.sendAnswers with
  | [] => .ok (boundAnswer n (Config.freeSend s.drive.draws), s.countDraw)
  | a :: rest =>
    if sendAccepted a ≤ n then .ok (a, { s with drive := { s.drive with sendAnswers := rest } }) else .error .sentMoreThanOffered

/-- `draw early in {true, false}` (R200). -/
def drawEarly (s : State) : Bool × State :=
  match s.drive.earlyDraws with
  | [] => (Config.freeEarly s.drive.draws, s.countDraw)
  | e :: rest => (e, { s with drive := { s.drive with earlyDraws := rest } })

/-- The next packet of `rx_future` (R67). -/
def drawPacket (s : State) : Bytes × State :=
  match s.env.rxFuture with
  | [] => (Config.freePacket s.drive.draws, s.countDraw)
  | p :: rest => (p, s.setEnv { s.env with rxFuture := rest })

/-! ### The USB device controller (R226) -/

/-- The bytes an endpoint holds for the block to receive; the transmit endpoint holds none. -/
def State.held (s : State) : Endpoint → Bytes
  | .rx => s.env.rxq
  | .ep0 => s.env.ep0q
  | .tx => []

/-- `isEndpointDataAvailable(ep)` (R66): no side effect. -/
def State.isEndpointDataAvailable (s : State) (ep : Endpoint) : Bool := !(s.held ep).isEmpty

/-- `receiveByte(ep)` (R66, R68): the first byte held, removed; "valid only when available", otherwise a fault (U3). -/
def receiveByte (ep : Endpoint) (s : State) : Except Fault (Byte × State) :=
  match ep, s.held ep with
  | .rx, b :: rest => .ok (b, s.setEnv { s.env with rxq := rest })
  | .ep0, b :: rest => .ok (b, s.setEnv { s.env with ep0q := rest })
  | _, _ => .error .receiveByteEmpty

/-- `releaseReceiveBuffer(RX_EP)` (R66). -/
def State.releaseReceiveBuffer (s : State) : State := s.setEnv { s.env with rxReleased := true }

/-- `sendBytes(TX_EP, B, len(B))` (R69): the accepted bytes are the first ones, in order. -/
def sendBytes (payload : Bytes) (s : State) : Except Fault (SendAnswer × State) :=
  match drawSend payload.length s with
  | .ok (r, t) => .ok (r, t.setEnv { t.env with txlog := t.env.txlog ++ payload.take (sendAccepted r) })
  | .error e => .error e

/-- `flushEndpoint(TX_EP)` (R69). -/
def State.flushEndpoint (s : State) : State := s.setEnv { s.env with txFlushes := s.env.txFlushes + 1 }

/-- `fifoByteCount(EP0)` (R68): no side effect. -/
def State.fifoByteCount (s : State) : Nat := (s.held .ep0).length

/-- `sendControlResponse(EP0, B, len(B))` (R68). -/
def State.sendControlResponse (s : State) (b : Bytes) : State := s.setEnv { s.env with ctlIn := s.env.ctlIn ++ [b] }

/-! ### Timing and reset (R227, R70) -/

/-- `millis()`. -/
def State.millis (s : State) : Nat := s.env.nowMs

/-- `delay(d)` is over when `now_ms >= t0 + d` (R70). -/
def State.delayOver (s : State) (t0 d : Nat) : Bool := decide (t0 + d ≤ s.env.nowMs)

/-- `scheduleReset(d)`: a call while a reset is pending restarts the delay (R70). -/
def State.scheduleReset (s : State) (d : Nat) : State :=
  s.setEnv { s.env with rstPending := true, rstDeadline := s.env.nowMs + d }

/-- `cancelScheduledReset()`. -/
def State.cancelScheduledReset (s : State) : State := s.setEnv { s.env with rstPending := false }

end Sys2Proof.Machine
end

