-- ==== Sys2Proof/Machine/Operands.lean ====
section
/-! DEFINITION. Operand and result forms: the `LC` format in both directions (R86, R87), the LineInfo register file (R27), the
optional byte (R93). The operand of SET_CONTROL_LINE_STATE is `lineStateOperand` of Decode.lean (R85). -/

namespace Sys2Proof.Machine

/-- `le32` (R8, R52): the first byte is the least significant. -/
def le32 (b0 b1 b2 b3 : Byte) : BitVec 32 := b3 ++ b2 ++ b1 ++ b0

/-- `le16` (R8). -/
def le16 (b0 b1 : Byte) : BitVec 16 := b1 ++ b0

/-- Byte `k` of a 32-bit value, byte 0 the least significant: the bytes of `bytes_le32` (R8). -/
def byteOf32 (v : BitVec 32) (k : Nat) : Byte := v.extractLsb' (8 * k) 8

/-- `encodeLC()` (R87). -/
def LineInfo.encodeLC (l : LineInfo) : LcBlock :=
  ⟨byteOf32 l.dwDTERate 0, byteOf32 l.dwDTERate 1, byteOf32 l.dwDTERate 2, byteOf32 l.dwDTERate 3,
    l.bCharFormat, l.bParityType, l.bDataBits⟩

/-- `decodeLC` (R87) into the record: no field is validated, `lineState` is untouched (R160). -/
def LineInfo.decodeLC (l : LineInfo) (b : LcBlock) : LineInfo :=
  { l with dwDTERate := le32 b.d0 b.d1 b.d2 b.d3, bCharFormat := b.d4, bParityType := b.d5, bDataBits := b.d6 }

/-- `LI[i]`, the record as a register file of eight bytes (R27). -/
def LineInfo.byte (l : LineInfo) : Fin 8 → Byte
  | 0 => byteOf32 l.dwDTERate 0
  | 1 => byteOf32 l.dwDTERate 1
  | 2 => byteOf32 l.dwDTERate 2
  | 3 => byteOf32 l.dwDTERate 3
  | 4 => l.bCharFormat
  | 5 => l.bParityType
  | 6 => l.bDataBits
  | 7 => l.lineState

/-- The DTR bit, `lineState[0]` (R31). -/
def LineInfo.dtr (l : LineInfo) : Bool := l.lineState.getLsbD 0

/-- The RTS bit, `lineState[1]` (R31). -/
def LineInfo.rts (l : LineInfo) : Bool := l.lineState.getLsbD 1

/-- `s > 0`, an 8-bit unsigned comparison with zero (R200). -/
def isOpenState (lineState : Byte) : Bool := decide (0 < lineState.toNat)

/-- The optional byte as the nine bits of a port (R93): valid, data. `pad` is what a port shows where there is no byte; no
reader may look at it (U2). -/
def optByteWord (pad : Byte) : Option Byte → BitVec 9
  | some b => 1#1 ++ b
  | none => 0#1 ++ pad

/-- Reading the nine bits of an optional byte (R93): the data are looked at only when valid. -/
def readOptByte (w : BitVec 9) : Option Byte := if w.getLsbD 8 then some (w.extractLsb' 0 8) else none

/-- The whole LineInfo record is written at once (R55, R160). -/
def State.setLine (s : State) (l : LineInfo) : State := { s with line := l }

/-- `lineState <- v` (R163). -/
def State.setLineState (s : State) (v : Byte) : State := { s with line := { s.line with lineState := v } }

end Sys2Proof.Machine
end

