-- ==== Sys2Proof/Machine/ControlRequests.lean ====
section
/-! DEFINITION. The Control-Request Handler (R150 to R169): the acceptance of a SETUP event, the micro-steps of each request,
the requests whole, and the wait of SET_LINE_CODING. -/

namespace Sys2Proof.Machine

/-- T1 (R150), with the emptying of `ep0q` that R68 puts there. -/
def ctlT1 (packet : SetupPacket) (s : State) : State :=
  let t := s.setEnv { s.env with ep0q := [] }
  { t with ctl := { t.ctl with setup := packet, phase := .dispatch .t2 } }

/-- SETUP (R150): taken only when `ctl_phase = IDLE`; otherwise it waits on port U (U18). -/
def execSetup (packet : SetupPacket) (s : State) : Outcome :=
  if s.ctl.phase = .idle then .next (ctlT1 packet s) else .next (s.setPortU (⟨0b10#2, packet⟩ :: s.ports.portU))

/-- The label of a request's first micro-step. -/
def firstLabel : Instr → CtlLabel
  | .getLineCoding _ _ _ => .g1
  | .setLineCoding _ _ _ => .s1
  | .setControlLineState _ _ _ => .l1
  | _ => .n1

/-- T2 (R150, R151). -/
def ctlT2 (s : State) : State := s.setCtlPhase (.dispatch (firstLabel (decodeSetup s.params s.ctl.setup)))

/-- G1 (R156): seven bytes are offered, whatever `wLength` says (R157). -/
def ctlG1 (s : State) : State := (s.sendControlResponse s.line.encodeLC.toBytes).setCtlPhase (.dispatch .g2)

/-- S1 (R160): the stall begins. -/
def ctlS1 (s : State) : State := s.setCtlPhase .waitFifo

/-- S2 (R160, R161): the stall ends when the data stage is there; until then nothing changes. -/
def ctlS2 (s : State) : State := if s.params.slcThreshold ≤ s.fifoByteCount then s.setCtlPhase (.dispatch .s3) else s

/-- The seven pulls of S3, in order. -/
def pullLc (s : State) : Except Fault (LcBlock × State) := do
  let (d0, s) ← receiveByte .ep0 s
  let (d1, s) ← receiveByte .ep0 s
  let (d2, s) ← receiveByte .ep0 s
  let (d3, s) ← receiveByte .ep0 s
  let (d4, s) ← receiveByte .ep0 s
  let (d5, s) ← receiveByte .ep0 s
  let (d6, s) ← receiveByte .ep0 s
  return (⟨d0, d1, d2, d3, d4, d5, d6⟩, s)

/-- S3 (R160). -/
def ctlS3 (s : State) : Outcome :=
  withResult (pullLc s) fun d t => .next { t with ctl := { t.ctl with pulled := d, phase := .dispatch .s4 } }

/-- S4 (R160): the seven registers change together (R55), no field is validated (R162). -/
def ctlS4 (s : State) : State := (s.setLine (s.line.decodeLC s.ctl.pulled)).setCtlPhase (.dispatch .s5)

/-- L1 (R163), with the operand `v`. -/
def ctlL1 (v : Byte) (s : State) : State := (s.setLineState v).setCtlPhase (.dispatch .l2)

/-- The bootloader-reset heuristic (R164), on the baud rate held and the new line state. -/
def applyHeuristic (s : State) : State :=
  if s.line.dwDTERate = s.params.magicBaud then
    if s.line.dtr then s.cancelScheduledReset else s.scheduleReset s.params.resetDelayMs
  else s

/-- L2 (R163). -/
def ctlL2 (s : State) : State := (applyHeuristic s).setCtlPhase (.dispatch .l3)

/-- S3 to S5, after the wait. -/
def slcFinish (s : State) : Outcome := andThen (ctlS3 s) fun t => .next ((ctlS4 t).ctlReturn true)

/-- SET_LINE_CODING from S2: it finishes if the data stage is there and goes on waiting if not. -/
def slcResume (s : State) : Outcome :=
  if s.params.slcThreshold ≤ s.fifoByteCount then slcFinish (ctlS2 s) else .next s

/-- GET_LINE_CODING (R156). The fields of the packet are not read. -/
def execGetLineCoding (wValue wIndex wLength : BitVec 16) (s : State) : Outcome :=
  takeCtl (packFields s.params.rtD2H s.params.brGLC wValue wIndex wLength) s fun s => .next ((ctlG1 s).ctlReturn true)

/-- SET_LINE_CODING (R160). The fields of the packet are not read. Where the data stage is not there yet it stalls. -/
def execSetLineCoding (wValue wIndex wLength : BitVec 16) (s : State) : Outcome :=
  takeCtl (packFields s.params.rtH2D s.params.brSLC wValue wIndex wLength) s fun s => slcResume (ctlS1 s)

/-- SET_CONTROL_LINE_STATE (R163): the operand is the low byte of `wValue` (R85). -/
def execSetControlLineState (wValue wIndex wLength : BitVec 16) (s : State) : Outcome :=
  takeCtl (packFields s.params.rtH2D s.params.brSCLS wValue wIndex wLength) s fun s =>
    .next ((ctlL2 (ctlL1 (lowByte wValue) s)).ctlReturn true)

/-- CTRL_UNHANDLED (R168): declined, no state changed. -/
def execCtrlUnhandled (packet : SetupPacket) (s : State) : Outcome :=
  takeCtl packet s fun s => .next (s.ctlReturn false)

/-- CTRL's next micro-step. -/
def ctlMicro (s : State) : Outcome :=
  match s.ctl.phase with
  | .idle => .next s
  | .waitFifo => .next (ctlS2 s)
  | .dispatch .t2 => .next (ctlT2 s)
  | .dispatch .g1 => .next (ctlG1 s)
  | .dispatch .g2 => .next (s.ctlReturn true)
  | .dispatch .s1 => .next (ctlS1 s)
  | .dispatch .s3 => ctlS3 s
  | .dispatch .s4 => .next (ctlS4 s)
  | .dispatch .s5 => .next (s.ctlReturn true)
  | .dispatch .l1 => .next (ctlL1 (lineStateOperand s.ctl.setup) s)
  | .dispatch .l2 => .next (ctlL2 s)
  | .dispatch .l3 => .next (s.ctlReturn true)
  | .dispatch .n1 => .next (s.ctlReturn false)

end Sys2Proof.Machine
end

