-- ==== Sys2Proof/Machine/RingBuffer.lean ====
section
/-! DEFINITION. The Ring Buffer primitives (R110 to R122), each whole (R60), and their meanings as port R operations. The
operation code fixes the agent that issues it, so a second writer cannot be written down (R224). -/

namespace Sys2Proof.Machine

/-- RB_WRITE, W1 to W3 (R116): refused with `ok = 0` when full. -/
def rbWriteByte (b : Byte) (s : State) : Except Fault (Bool × State) :=
  if s.full then .ok (false, s)
  else match s.memWrite s.ring.head b with
    | .ok t => .ok (true, t.setHead (inc s.params.C s.ring.head))
    | .error e => .error e

/-- RB_READ, D1 to D3 (R118): `none` when empty. -/
def rbReadByte (s : State) : Except Fault (Option Byte × State) :=
  if s.empty then .ok (none, s)
  else match s.memRead s.ring.tail with
    | .ok v => .ok (some v, s.setTail (inc s.params.C s.ring.tail))
    | .error e => .error e

/-- RB_PEEK, K1 and K2 (R120): `none` when empty, no state changed. -/
def rbPeekByte (s : State) : Except Fault (Option Byte × State) :=
  if s.empty then .ok (none, s)
  else match s.memRead s.ring.tail with
    | .ok v => .ok (some v, s)
    | .error e => .error e

/-- RB_AVAIL (R113), issued by APP. -/
def execRbAvail (s : State) : Outcome :=
  takeRb s.appReady ⟨0b00#2, 0#8⟩ s fun s => .next (s.respondR (.count s.avail))

/-- RB_WRITE (R116), issued by PUMP. -/
def execRbWrite (b : Byte) (s : State) : Outcome :=
  takeRb s.pumpReady ⟨0b01#2, b⟩ s fun s => withResult (rbWriteByte b s) fun ok t => .next (t.respondR (.ok ok))

/-- RB_READ (R118), issued by APP. -/
def execRbRead (s : State) : Outcome :=
  takeRb s.appReady ⟨0b10#2, 0#8⟩ s fun s => withResult (rbReadByte s) fun r t => .next (t.respondR (.opt r))

/-- RB_PEEK (R120), issued by APP. -/
def execRbPeek (s : State) : Outcome :=
  takeRb s.appReady ⟨0b11#2, 0#8⟩ s fun s => withResult (rbPeekByte s) fun r t => .next (t.respondR (.opt r))

end Sys2Proof.Machine
end

