-- ==== Sys2Proof/Machine/ReceivePump.lean ====
section
/-! DEFINITION. The Receive Pump (R130 to R138): RX_READY, the micro-steps U0 to U6 of a pass, and PUMP, the whole pass. -/

namespace Sys2Proof.Machine

/-- RX_READY, E1 (R136): never refused, never masked, taken even during a pass and during a stall. ENV takes it together with the
packet arrival (`arrive`, R67). -/
def execRxReady (s : State) : Outcome := .next s.askPass

/-- U0: the request is taken and the pass begins. -/
def pumpU0 (s : State) : State := s.takePass.setPumpPhase (.run .u1)

/-- U1: the test for room, on a fresh read of `tail`; when full the pass stops without a release. -/
def pumpU1 (s : State) : State :=
  (s.setPumpNext (inc s.params.C s.ring.head)).setPumpPhase (.run (if s.full then .u6 else .u2))

/-- U2: when the endpoint is empty it is released and the pass stops. -/
def pumpU2 (s : State) : State :=
  if s.isEndpointDataAvailable .rx then s.setPumpPhase (.run .u3) else s.releaseReceiveBuffer.setPumpPhase (.run .u6)

/-- U3: one byte is pulled. -/
def pumpU3 (s : State) : Outcome :=
  withResult (receiveByte .rx s) fun b t => .next ((t.setPumpByte b).setPumpPhase (.run .u4))

/-- U4: the byte is stored; the cell before the pointer (R59). -/
def pumpU4 (s : State) : Outcome :=
  match s.memWrite s.ring.head s.pump.byte with
  | .ok t => .next (t.setPumpPhase (.run .u5))
  | .error e => .fault e

/-- U5: `head <- pump_next`, and the loop. -/
def pumpU5 (s : State) : State := (s.setHead s.pump.nextIndex).setPumpPhase (.run .u1)

/-- U6: the pass ends. -/
def pumpU6 (s : State) : State := s.setPumpPhase .idle

/-- The loop of R133 from U1, for at most `turns` turns. -/
def pumpLoop : Nat → State → Outcome
  | 0, s => .next s
  | turns + 1, s =>
    if s.full then .next (pumpU6 (pumpU1 s))
    else if s.isEndpointDataAvailable .rx then
      andThen (pumpU3 (pumpU2 (pumpU1 s))) fun t => andThen (pumpU4 t) fun u => pumpLoop turns (pumpU5 u)
    else .next (pumpU6 (pumpU2 (pumpU1 s)))

/-- PUMP, one whole pass (R133). It starts when `pump_req = 1`, `pump_phase = IDLE` and `stall = 0`; otherwise there is no pass.
A pass takes at most `len(rxq) + 1` turns of its loop (R270). -/
def execPump (s : State) : Outcome :=
  if s.pumpReady && s.pump.req then pumpLoop (s.env.rxq.length + 1) (pumpU0 s) else .next s

/-- PUMP's next micro-step; none is enabled during a stall (R216). -/
def pumpMicro (s : State) : Outcome :=
  if s.stall then .next s
  else match s.pump.phase with
    | .idle => .next (if s.pump.req then pumpU0 s else s)
    | .run .u1 => .next (pumpU1 s)
    | .run .u2 => .next (pumpU2 s)
    | .run .u3 => pumpU3 s
    | .run .u4 => pumpU4 s
    | .run .u5 => .next (pumpU5 s)
    | .run .u6 => .next (pumpU6 s)

end Sys2Proof.Machine
end

