-- ==== Sys2Proof/Machine/SerialFacade.lean ====
section
/-! DEFINITION. The Serial-Port Facade (R180 to R208): the commands of port A, whole, and APP's micro-steps. -/

namespace Sys2Proof.Machine

/-- OPEN (R180): a no-op. -/
def execOpenPort (s : State) : Outcome := takeApp .openPort s fun s => .next (s.appReturn .nothing)

/-- OPEN_CFG (R181): a no-op, both operands ignored. -/
def execOpenCfg (baud : BitVec 32) (cfg : BitVec 16) (s : State) : Outcome :=
  takeApp (.openCfg baud cfg) s fun s => .next (s.appReturn .nothing)

/-- CLOSE (R182): a no-op. -/
def execClosePort (s : State) : Outcome := takeApp .closePort s fun s => .next (s.appReturn .nothing)

/-- AVAIL (R185). -/
def execAvail (s : State) : Outcome := takeApp .avail s fun s => .next (s.appReturn (.count s.avail))

/-- PEEK (R188). -/
def execPeek (s : State) : Outcome :=
  takeApp .peek s fun s => withResult (rbPeekByte s) fun r t => .next (t.appReturn (.optByte r))

/-- A3 of READ (R191): a pass is asked for if the endpoint still has data. -/
def readTrigger (s : State) : State := if s.isEndpointDataAvailable .rx then s.askPass else s

/-- READ (R191): no trigger where nothing was consumed. -/
def execRead (s : State) : Outcome :=
  takeApp .read s fun s => withResult (rbReadByte s) fun r t =>
    match r with
    | none => .next (t.appReturn (.optByte none))
    | some v => .next ((readTrigger t).appReturn (.optByte (some v)))

/-- A2 of WRITE (R197), on the answer `r`: the result, and the flag on a failure. -/
def writeResult (r : SendAnswer) (s : State) : State :=
  if sendFailed r then s.markWriteError.appReturn (.sent 0) else s.appReturn (.sent (sendAccepted r))

/-- WRITE (R197): the whole payload in one call, no queue and no retry. -/
def execWrite (payload : Bytes) (s : State) : Outcome :=
  takeApp (.write payload) s fun s => withResult (sendBytes payload s) fun r t => .next (writeResult r t)

/-- FLUSH (R199). -/
def execFlush (s : State) : Outcome := takeApp .flush s fun s => .next (s.flushEndpoint.appReturn .nothing)

/-- A1 of ISOPEN (R200): false, with no delay, during the hold-off. -/
def isOpenA1 (s : State) : State :=
  if s.millis < s.params.bootHoldoffMs then s.appReturn (.flag false) else s.setApp .isOpenA2

/-- The draw `early` of A2, and the line state sampled early (R200). -/
def sampleEarly (s : State) : Option Byte × State :=
  let d := drawEarly s
  (if d.1 then some s.line.lineState else none, d.2)

/-- A2 of ISOPEN (R200). -/
def isOpenA2 (s : State) : State :=
  let d := sampleEarly s
  d.2.setApp (.isOpenA3 d.1)

/-- A3 of ISOPEN (R200, R70): the delay begins. -/
def isOpenA3 (sample : Option Byte) (s : State) : State := s.setApp (.isOpenA4 s.millis sample)

/-- A4 of ISOPEN (R200): enabled when the delay is over; the late sample is taken here. -/
def isOpenA4 (t0 : Nat) (sample : Option Byte) (s : State) : State :=
  if s.delayOver t0 s.params.settleMs then s.appReturn (.flag (isOpenState (sample.getD s.line.lineState))) else s

/-- ISOPEN (R200): to its end during the hold-off, and to its delay after it. A4, which the delay holds back while other agents
run (R70), is the micro-step that ends it. -/
def execIsOpen (s : State) : Outcome :=
  takeApp .isOpen s fun s =>
    .next (if s.millis < s.params.bootHoldoffMs then s.appReturn (.flag false)
      else let d := sampleEarly s
        isOpenA3 d.1 d.2)

/-- GETWERR (R203): reading does not clear. -/
def execGetWerr (s : State) : Outcome := takeApp .getWerr s fun s => .next (s.appReturn (.flag s.writeError))

/-- CLRWERR (R204). -/
def execClrWerr (s : State) : Outcome := takeApp .clrWerr s fun s => .next (s.clearWriteError.appReturn .nothing)

/-- APP_RESERVED (R206): `err = 1`, no state changed. -/
def execAppReserved (op : BitVec 4) (s : State) : Outcome :=
  takeApp (.appReserved op) s fun s => .next (s.appReturn (.err true))

/-! ### Micro-steps -/

/-- The first micro-step of a command in hand: A1, or the first micro-step of the primitive that A1 issues (R183). -/
def appA1 (i : Instr) (s : State) : Outcome :=
  match i with
  | .openPort | .openCfg _ _ | .closePort => .next (s.appReturn .nothing)
  | .avail => .next (s.appReturn (.count s.avail))
  | .peek => .next (if s.empty then s.appReturn (.optByte none) else s.setApp .peekK2)
  | .read => .next (s.setApp (if s.empty then .readA2 none else .readD2))
  | .write payload => withResult (sendBytes payload s) fun r t => .next (t.setApp (.writeA2 r))
  | .flush => .next (s.flushEndpoint.appReturn .nothing)
  | .isOpen => .next (isOpenA1 s)
  | .getWerr => .next (s.appReturn (.flag s.writeError))
  | .clrWerr => .next (s.clearWriteError.appReturn .nothing)
  | .appReserved _ => .next (s.appReturn (.err true))
  | _ => .next s

/-- Use the byte in the cell that `tail` names. -/
def withTailByte (s : State) (f : Byte → State) : Outcome :=
  match s.memRead s.ring.tail with
  | .ok v => .next (f v)
  | .error e => .fault e

/-- The micro-step of the command in hand. -/
def appNext (s : State) : Outcome :=
  match s.app with
  | .idle => .next s
  | .taken i => appA1 i s
  | .peekK2 => withTailByte s fun v => s.appReturn (.optByte (some v))
  | .readD2 => withTailByte s fun v => s.setApp (.readD3 v)
  | .readD3 v => .next ((s.setTail (inc s.params.C s.ring.tail)).setApp (.readA2 (some v)))
  | .readA2 none => .next (s.appReturn (.optByte none))
  | .readA2 (some v) => .next (s.setApp (.readA3 v))
  | .readA3 v => .next ((readTrigger s).setApp (.readA4 v))
  | .readA4 v => .next (s.appReturn (.optByte (some v)))
  | .writeA2 r => .next (writeResult r s)
  | .isOpenA2 => .next (isOpenA2 s)
  | .isOpenA3 sample => .next (isOpenA3 sample s)
  | .isOpenA4 t0 sample => .next (isOpenA4 t0 sample s)

/-- The head of port A is taken and decoded, and `k` runs its operation; nothing stands there, nothing happens. -/
def takeRequest (s : State) (k : Instr → State → Outcome) : Outcome :=
  match s.ports.portA with
  | [] => .next s
  | r :: rest =>
    match decodeApp s.params r with
    | .ok i => k i (s.setPortA rest)
    | .error _ => .refused .malformedRequest

/-- APP's next micro-step; none is enabled during a stall (R216). Idle, it takes the next command of port A. -/
def appMicro (s : State) : Outcome :=
  if s.stall then .next s
  else if s.app = .idle then takeRequest s fun i t => .next (t.setApp (.taken i))
  else appNext s

end Sys2Proof.Machine
end

