-- ==== Sys2Proof/Machine/Dispatch.lean ====
section
/-! DEFINITION. One arm per operation of R96: the operation run whole by its agent (the grain of R97), or left to wait where
its agent cannot take it. -/

namespace Sys2Proof.Machine

def exec (i : Instr) (s : State) : Host.Outcome State Fault Refusal :=
  match i with
  | .rbAvail => Sys2Proof.Machine.execRbAvail s
  | .rbWrite b => Sys2Proof.Machine.execRbWrite b s
  | .rbRead => Sys2Proof.Machine.execRbRead s
  | .rbPeek => Sys2Proof.Machine.execRbPeek s
  | .rxReady => Sys2Proof.Machine.execRxReady s
  | .pump => Sys2Proof.Machine.execPump s
  | .setup packet => Sys2Proof.Machine.execSetup packet s
  | .getLineCoding v x n => Sys2Proof.Machine.execGetLineCoding v x n s
  | .setLineCoding v x n => Sys2Proof.Machine.execSetLineCoding v x n s
  | .setControlLineState v x n => Sys2Proof.Machine.execSetControlLineState v x n s
  | .ctrlUnhandled packet => Sys2Proof.Machine.execCtrlUnhandled packet s
  | .openPort => Sys2Proof.Machine.execOpenPort s
  | .openCfg baud cfg => Sys2Proof.Machine.execOpenCfg baud cfg s
  | .closePort => Sys2Proof.Machine.execClosePort s
  | .avail => Sys2Proof.Machine.execAvail s
  | .peek => Sys2Proof.Machine.execPeek s
  | .read => Sys2Proof.Machine.execRead s
  | .write payload => Sys2Proof.Machine.execWrite payload s
  | .flush => Sys2Proof.Machine.execFlush s
  | .isOpen => Sys2Proof.Machine.execIsOpen s
  | .getWerr => Sys2Proof.Machine.execGetWerr s
  | .clrWerr => Sys2Proof.Machine.execClrWerr s
  | .appReserved op => Sys2Proof.Machine.execAppReserved op s

end Sys2Proof.Machine
end

