-- ==== Sys2Proof/Machine/Environment.lean ====
section
/-! DEFINITION. The steps of ENV (R67 to R70, R230): packet arrival, data arrival, Tick, Fire, `rst`, and what it presents on
the ports. A step that is not enabled changes nothing. -/

namespace Sys2Proof.Machine

/-- Packet arrival with packet `p` (R67): enabled when the endpoint is released; it raises RX_READY (R136). -/
def arrive (p : Bytes) (s : State) : State :=
  if s.env.rxReleased then (s.setEnv { s.env with rxq := p, rxReleased := false }).askPass else s

/-- Packet arrival with the next packet of `rx_future` (R67). -/
def arriveNext (s : State) : State :=
  if s.env.rxReleased then
    let d := drawPacket s
    arrive d.1 d.2
  else s

/-- Data arrival on `EP0` (R68): enabled always. -/
def dataArrive (bs : Bytes) (s : State) : State := s.setEnv { s.env with ep0q := s.env.ep0q ++ bs }

/-- Tick (R70): enabled always; time never wraps. -/
def tick (s : State) : State := s.setEnv { s.env with nowMs := s.env.nowMs + 1 }

/-- Fire is enabled when a reset is pending and due (R70). -/
def State.fireEnabled (s : State) : Bool := s.env.rstPending && decide (s.env.rstDeadline ≤ s.env.nowMs)

/-- Fire (R70, R240): the scheduled reset. -/
def fire (s : State) : State := if s.fireEnabled then s.resetBlock else s

/-- ENV presents a command on port A. -/
def presentApp (r : AppRequest) (s : State) : State := s.setPortA (s.ports.portA ++ [r])

/-- ENV presents an event on port U. RX_READY is the packet arrival itself, and is taken with it (R67, R136, R213): it never
stands on the port. Any other event stands there until it is taken. -/
def presentUsb (e : UsbEvent) (s : State) : State :=
  if e.uEv = 0b01#2 then arriveNext s else s.setPortU (s.ports.portU ++ [e])

/-- A primitive is presented on port R. -/
def presentRb (r : RbRequest) (s : State) : State := s.setPortR (s.ports.portR ++ [r])

end Sys2Proof.Machine
end

