-- ==== Sys2Proof/Machine/Schedule.lean ====
section
/-! DEFINITION. One pick of the schedule (R56): the agent picked takes its operation or its micro-step, or ENV its step. Where
the pick is not enabled nothing changes. -/

namespace Sys2Proof.Machine

/-- The next pick: the first listed, or, where none is, a free one (R56, U21). -/
def nextPick (s : State) : Pick × State :=
  match s.drive.schedule with
  | [] => (Config.freePick s.drive.draws, s.countDraw)
  | p :: rest => (p, { s with drive := { s.drive with schedule := rest } })

/-- APP takes the next command of port A and runs it, if it is idle and there is no stall (R90). -/
def runAppOp (s : State) : Outcome := if s.appReady then takeRequest s exec else .next s

/-- PUMP runs a pass, if one is asked for (the trigger word `pump_req`, R80) and it is idle and there is no stall (R133). -/
def runPumpOp (s : State) : Outcome :=
  if s.pumpReady then
    match decode s.params (.trig s.pump.req) with
    | .ok i => exec i s
    | .error _ => .next s
  else .next s

/-- CTRL decodes the packet in hand and runs the request (T2, R150), or goes on with a waiting SET_LINE_CODING (R161). -/
def runCtrlOp (s : State) : Outcome :=
  if s.ctlReady then exec (decodeSetup s.params s.ctl.setup) s
  else if s.stall then slcResume s
  else .next s

/-- The event on port U can be taken: a SETUP only when `ctl_phase = IDLE`, any other always (R90). -/
def usbTakeable (e : UsbEvent) (s : State) : Bool := e.uEv != 0b10#2 || s.ctl.phase == .idle

/-- The first event that can be taken, and the events without it: one that has to wait holds back none behind it. -/
def firstTakeable (ok : UsbEvent → Bool) : List UsbEvent → Option (UsbEvent × List UsbEvent)
  | [] => none
  | e :: rest =>
    if ok e then some (e, rest)
    else match firstTakeable ok rest with
      | some (f, others) => some (f, e :: others)
      | none => none

/-- The first event of port U that can be taken is taken (R90, R213: a waiting SETUP masks nothing); no event and a reserved
event are passed over (R92, R95). -/
def runUsbOp (s : State) : Outcome :=
  match firstTakeable (fun e => usbTakeable e s) s.ports.portU with
  | none => .next s
  | some (e, rest) =>
    match decodeUsb e with
    | .ok i => exec i (s.setPortU rest)
    | .error _ => .next (s.setPortU rest)

/-- The agent that issues a primitive is ready (R94): PUMP for RB_WRITE, APP for the others. -/
def rbReady (r : RbRequest) (s : State) : Bool := if r.rbOp = 0b01#2 then s.pumpReady else s.appReady

/-- The primitive at the head of port R is run, if its agent is ready; if not, it holds back those behind it, the other agent's
too. The spec gives port R no order: DESIGN CHOICE, notes/assumptions/10.md. -/
def runRbOp (s : State) : Outcome :=
  match s.ports.portR with
  | [] => .next s
  | r :: rest => if rbReady r s then exec (decodeRb r) (s.setPortR rest) else .next s

/-- One pick. -/
def runPick (p : Pick) (s : State) : Outcome :=
  match p with
  | .appOp => runAppOp s
  | .appMicro => appMicro s
  | .pumpOp => runPumpOp s
  | .pumpMicro => pumpMicro s
  | .ctrlOp => runCtrlOp s
  | .ctrlMicro => ctlMicro s
  | .usbOp => runUsbOp s
  | .rbOp => runRbOp s
  | .presentApp r => .next (presentApp r s)
  | .presentUsb e => .next (presentUsb e s)
  | .presentRb r => .next (presentRb r s)
  | .packet => .next (arriveNext s)
  | .pkt bs => .next (arrive bs s)
  | .data bs => .next (dataArrive bs s)
  | .tick => .next (tick s)
  | .fire => .next (fire s)
  | .rst => .next s.resetBlock

/-- One step: a configuration of the block takes its next pick (R56); any other is refused (R212). -/
def stepOnce (s : State) : Outcome :=
  if s.params.ok then
    let d := nextPick s
    runPick d.1 d.2
  else .refused .badConfiguration

/-- The state with no stall: a waiting SET_LINE_CODING is put aside, anything else stays. -/
def State.unstalled (s : State) : State := if s.stall then s.setCtlPhase .idle else s

/-- The state with `p` the next pick. -/
def State.pickNext (s : State) (p : Pick) : State := { s with drive := { s.drive with schedule := p :: s.drive.schedule } }

/-- A port word placed where the machine takes it, with its agent ready for it and its pick next: a command at the head of port
A with APP idle, an event at the head of port U (with CTRL idle for a SETUP), a primitive at the head of port R with its agent
idle, a packet in CTRL's hand, `pump_req` with PUMP idle; no stall where a stall would hold it. -/
def placeWord (w : PortWord) (s : State) : State :=
  match w with
  | .app r => ((s.unstalled.setApp .idle).setPortA (r :: s.ports.portA)).pickNext .appOp
  | .usb e =>
    let t := if e.uEv = 0b10#2 then s.setCtlPhase .idle else s
    (t.setPortU (e :: s.ports.portU)).pickNext .usbOp
  | .rb r =>
    let t := if r.rbOp = 0b01#2 then s.unstalled.setPumpPhase .idle else s.unstalled.setApp .idle
    (t.setPortR (r :: s.ports.portR)).pickNext .rbOp
  | .setup packet => State.pickNext { s with ctl := { s.ctl with setup := packet, phase := .dispatch .t2 } } .ctrlOp
  | .trig req =>
    let t := s.unstalled.setPumpPhase .idle
    State.pickNext { t with pump := { t.pump with req := req } } .pumpOp

end Sys2Proof.Machine
end

