-- ==== Sys2Proof/Machine/Step.lean ====
section
/-! DEFINITION. The step of the machine, and the placing of a word where the next step takes it. -/

namespace Sys2Proof.Machine

/-- One step of the machine: one pick of its schedule. -/
def step (s : State) : Host.Outcome State Fault Refusal := stepOnce s

/-- The state with a table row's word standing on its port, ready to be taken by the very next step (notes/assumptions/3.md). A
word no port carries changes nothing. -/
def State.withFetchWord (s : State) (nbits w : Nat) : State :=
  match tableWord nbits w with
  | some word => placeWord word s
  | none => s

end Sys2Proof.Machine
end

