-- ==== Sys2Proof/Machine/Trace.lean ====
section
/-! DEFINITION. Traces (R97, R98): the steps of ENV that a line stands for, the running of the block to its quiescent state after
each line (R245), and the pseudo-operations of R98. -/

namespace Sys2Proof.Machine

/-- A line of a trace (R97, R98). -/
inductive TraceLine where
  /-- `APP: …`, a command of port A. -/
  | app (r : AppRequest)
  /-- `ENV: PKT S`. -/
  | pkt (bs : Bytes)
  /-- `ENV: SETUP S`. -/
  | setup (packet : SetupPacket)
  /-- `ENV: DATA S`. -/
  | data (bs : Bytes)
  /-- `ENV: TICK n`. -/
  | tick (n : Nat)
  /-- `ENV: FIRE`. -/
  | fire
  /-- `HOST: GLC`. -/
  | hostGLC
  /-- `HOST: SLC baud, f, p, d`. -/
  | hostSLC (baud : BitVec 32) (f p d : Byte)
  /-- `HOST: SCLS v`. -/
  | hostSCLS (v : Byte)
deriving DecidableEq, Repr

/-- What ENV does at a line (R97, R98), in stages; the block runs to its quiescent state after each. -/
def TraceLine.stages : TraceLine → List (List Pick)
  | .app r => [[.presentApp r]]
  | .pkt bs => [[.pkt bs]]
  | .setup packet => [[.presentUsb ⟨0b10#2, packet⟩]]
  | .data bs => [[.data bs]]
  | .tick n => [List.replicate n .tick]
  | .fire => [[.fire]]
  | .hostGLC => [[.presentUsb ⟨0b10#2, packSetup 0xA1#8 0x21#8 0#8 0#8 0#8 0#8 7#8 0#8⟩]]
  | .hostSLC baud f p d =>
    [[.presentUsb ⟨0b10#2, packSetup 0x21#8 0x20#8 0#8 0#8 0#8 0#8 7#8 0#8⟩],
      [.data [byteOf32 baud 0, byteOf32 baud 1, byteOf32 baud 2, byteOf32 baud 3, f, p, d]]]
  | .hostSCLS v => [[.presentUsb ⟨0b10#2, packSetup 0x21#8 0x22#8 v 0#8 0#8 0#8 0#8 0#8⟩]]

/-! ### Quiescence (R245): every enabled micro-step of CTRL, APP and PUMP, with no step of ENV -/

/-- CTRL has an enabled micro-step: any but the wait of S2 while the data stage is short (R161). -/
def State.ctlEnabled (s : State) : Bool :=
  match s.ctl.phase with
  | .idle => false
  | .waitFifo => decide (s.params.slcThreshold ≤ s.fifoByteCount)
  | .dispatch _ => true

/-- An event stands on port U that can be taken. -/
def State.usbEnabled (s : State) : Bool := (firstTakeable (fun e => usbTakeable e s) s.ports.portU).isSome

/-- APP has an enabled micro-step: a command to take, or any of the command in hand but A4 before its delay is over (R70); none
during a stall (R216). -/
def State.appEnabled (s : State) : Bool :=
  !s.stall && match s.app with
    | .idle => !s.ports.portA.isEmpty
    | .taken i => i.format == .app
    | .isOpenA4 t0 _ => s.delayOver t0 s.params.settleMs
    | _ => true

/-- A primitive stands at the head of port R and its agent is ready (the one queue: notes/assumptions/10.md). -/
def State.rbEnabled (s : State) : Bool :=
  match s.ports.portR with
  | [] => false
  | r :: _ => rbReady r s

/-- PUMP has an enabled micro-step: one of a running pass, or U0 of a pass asked for; none during a stall (R216). -/
def State.pumpEnabled (s : State) : Bool := !s.stall && (s.pump.phase != .idle || s.pump.req)

/-- The pick is an enabled step of CTRL, APP or PUMP, or the taking of a word that stands on a port; no step of ENV is one (R245). -/
def State.enabled (s : State) (p : Pick) : Bool :=
  match p with
  | .ctrlMicro => s.ctlEnabled
  | .usbOp => s.usbEnabled
  | .appMicro => s.appEnabled
  | .rbOp => s.rbEnabled
  | .pumpMicro => s.pumpEnabled
  | _ => false

/-- The enabled step that a trace takes next, if there is one (the order: notes/assumptions/26.md). A request, and a command, once begun goes to its end before
another agent steps (the grain of R97). -/
def nextEnabled (s : State) : Option Pick :=
  if s.ctlEnabled then some .ctrlMicro
  else if s.usbEnabled then some .usbOp
  else if s.appEnabled then some .appMicro
  else if s.rbEnabled then some .rbOp
  else if s.pumpEnabled then some .pumpMicro
  else none

/-- Micro-steps a request has left at most. -/
def CtlPhase.work : CtlPhase → Nat
  | .idle => 0
  | .waitFifo => 4
  | .dispatch .t2 => 6
  | .dispatch .s1 => 5
  | .dispatch .s3 => 3
  | .dispatch .l1 => 3
  | .dispatch .s4 => 2
  | .dispatch .g1 => 2
  | .dispatch .l2 => 2
  | .dispatch .s5 => 1
  | .dispatch .g2 => 1
  | .dispatch .l3 => 1
  | .dispatch .n1 => 1

/-- Micro-steps a command has left at most, with the four of an empty pass for the trigger of READ's A3. -/
def AppPhase.work : AppPhase → Nat
  | .idle => 0
  | .taken _ => 10
  | .readD2 => 9
  | .readD3 _ => 8
  | .readA2 (some _) => 7
  | .readA3 _ => 6
  | .isOpenA2 => 3
  | .isOpenA3 _ => 2
  | .readA2 none => 1
  | .readA4 _ => 1
  | .peekK2 => 1
  | .writeA2 _ => 1
  | .isOpenA4 _ _ => 1

/-- Micro-steps a running pass has left at most, beside five for each byte that the endpoint holds. -/
def PumpPhase.work : PumpPhase → Nat
  | .idle => 0
  | .run .u4 => 5
  | .run .u5 => 4
  | .run .u1 => 3
  | .run .u2 => 2
  | .run .u3 => 1
  | .run .u6 => 1

/-- A bound on the steps to quiescence: each enabled step, in whatever order, makes it smaller (R135 (a), R270). -/
def State.work (s : State) : Nat :=
  s.ctl.phase.work + 7 * s.ports.portU.length + s.app.work + 11 * s.ports.portA.length + s.ports.portR.length +
    s.pump.phase.work + 5 * s.env.rxq.length + (if s.pump.req then 4 else 0)

/-- At most `n` of the enabled steps, one after another. -/
def settleFor : Nat → State → Outcome
  | 0, s => .next s
  | n + 1, s =>
    match nextEnabled s with
    | none => .next s
    | some p => andThen (runPick p s) (settleFor n)

/-- The block run until no step of CTRL, APP or PUMP is enabled (R245). -/
def settle (s : State) : Outcome := settleFor s.work s

/-! ### Running a trace -/

/-- Picks one after another. -/
def runPicks : List Pick → State → Outcome
  | [], s => .next s
  | p :: rest, s => andThen (runPick p s) (runPicks rest)

/-- Stages one after another, each run to quiescence. -/
def runStages : List (List Pick) → State → Outcome
  | [], s => .next s
  | ps :: rest, s => andThen (runPicks ps s) fun t => andThen (settle t) (runStages rest)

/-- A trace (R97): its lines one after another, each read to the quiescent state. -/
def runTrace (lines : List TraceLine) (s : State) : Outcome := runStages (lines.flatMap TraceLine.stages) s

end Sys2Proof.Machine
end

