-- ==== Sys2Proof/Safety.lean ====
section
/-! DEFINITION. The terms in which claims speak: the unread bytes, the receive stream, quiescence, the dead receive side, and
the invariant of the block (R24, R60, R66, and the facts each label of a running operation stands for). -/

namespace Sys2Proof.Machine

/-- Cell number of the `k`-th unread byte, oldest first (R24). -/
def State.unreadCell (s : State) (k : Nat) : Nat := (s.ring.tail + k) % s.params.C

/-- The unread bytes `Q`, oldest first (R121). -/
def State.unread (s : State) : Bytes := (List.range s.avail).map fun k => s.cell (s.unreadCell k)

/-- The byte a running pass has pulled and not yet put behind `head` (R133, between U3 and U5). -/
def State.inFlight (s : State) : Bytes :=
  match s.pump.phase with
  | .run .u4 => [s.pump.byte]
  | .run .u5 => [s.pump.byte]
  | _ => []

/-- Every received byte that APP has not consumed, oldest first: unread, in flight, still in the endpoint (R61). -/
def State.stream (s : State) : Bytes := s.unread ++ s.inFlight ++ s.env.rxq

/-- Quiescence (R245). -/
def State.quiescent (s : State) : Bool :=
  s.pump.phase == .idle && s.ctl.phase == .idle && s.app == .idle && !s.pump.req

/-- The receive side is dead (R255): the endpoint empty and unreleased, no pass running and none asked for. -/
def State.receiveDead (s : State) : Bool :=
  s.env.rxq.isEmpty && !s.env.rxReleased && s.pump.phase == .idle && !s.pump.req

/-- The operation is a command of port A. -/
def isCommand (i : Instr) : Bool := i.format == .app

/-- The Ring Buffer's own invariant (R24): indices in range, memory in canonical form, only cells that exist are listed, and
every unread cell has been written since reset (U1). -/
abbrev RingInv (s : State) : Prop :=
  s.ring.head < s.params.C ∧ s.ring.tail < s.params.C ∧ s.ring.storage.wf = true ∧
  (∀ c ∈ s.ring.storage, c.1 < s.params.C) ∧
  ∀ k, k < s.avail → (s.ring.storage.get? (s.unreadCell k)).isSome = true

/-- What the label of a running pass stands for (R133, R137): room is still there, the endpoint has a byte, the byte is stored. -/
abbrev PumpInv (s : State) : Prop :=
  match s.pump.phase with
  | .idle => True
  | .run .u1 => True
  | .run .u6 => True
  | .run .u2 => s.pump.nextIndex = inc s.params.C s.ring.head ∧ s.full = false
  | .run .u3 => s.pump.nextIndex = inc s.params.C s.ring.head ∧ s.full = false ∧ s.env.rxq ≠ []
  | .run .u4 => s.pump.nextIndex = inc s.params.C s.ring.head ∧ s.full = false
  | .run .u5 => s.pump.nextIndex = inc s.params.C s.ring.head ∧ s.full = false ∧
      s.ring.storage.get? s.ring.head = some s.pump.byte

/-- What the label of a command in hand stands for (R191, R60): the buffer APP found not empty stays so, the byte read is the
oldest. -/
abbrev AppInv (s : State) : Prop :=
  match s.app with
  | .taken i => isCommand i = true
  | .peekK2 => s.empty = false
  | .readD2 => s.empty = false
  | .readD3 v => s.empty = false ∧ s.cell s.ring.tail = v
  | .isOpenA4 t0 _ => t0 ≤ s.env.nowMs
  | _ => True

/-- What the label of a request in hand stands for (R160): the packet in hand selects it, and a data stage that was complete stays
complete until it is pulled. -/
abbrev CtlInv (s : State) : Prop :=
  match s.ctl.phase with
  | .idle => True
  | .dispatch .t2 => True
  | .dispatch .g1 => firstLabel (decodeSetup s.params s.ctl.setup) = .g1
  | .dispatch .g2 => firstLabel (decodeSetup s.params s.ctl.setup) = .g1
  | .dispatch .s1 => firstLabel (decodeSetup s.params s.ctl.setup) = .s1
  | .waitFifo => firstLabel (decodeSetup s.params s.ctl.setup) = .s1
  | .dispatch .s3 => firstLabel (decodeSetup s.params s.ctl.setup) = .s1 ∧ lcLen ≤ s.env.ep0q.length
  | .dispatch .s4 => firstLabel (decodeSetup s.params s.ctl.setup) = .s1
  | .dispatch .s5 => firstLabel (decodeSetup s.params s.ctl.setup) = .s1
  | .dispatch .l1 => firstLabel (decodeSetup s.params s.ctl.setup) = .l1
  | .dispatch .l2 => firstLabel (decodeSetup s.params s.ctl.setup) = .l1
  | .dispatch .l3 => firstLabel (decodeSetup s.params s.ctl.setup) = .l1
  | .dispatch .n1 => firstLabel (decodeSetup s.params s.ctl.setup) = .n1

/-- An endpoint that is released holds no byte (R66, R67). -/
abbrev EndpointInv (s : State) : Prop := s.env.rxReleased = true → s.env.rxq = []

/-- No RX_READY stands on port U: it is taken with the packet that raises it (R67, R136, R213). -/
abbrev PortInv (s : State) : Prop := ∀ e ∈ s.ports.portU, e.uEv ≠ 0b01#2

/-- The invariant of the block, true after reset and kept by every step. -/
abbrev Inv (s : State) : Prop :=
  s.params.ok = true ∧ RingInv s ∧ PumpInv s ∧ AppInv s ∧ CtlInv s ∧ EndpointInv s ∧ PortInv s

/-- `n` micro-steps of one agent with no other agent stepping in between (R56). -/
def repeatMicro (f : State → Outcome) : Nat → State → Outcome
  | 0, s => .next s
  | n + 1, s => andThen (f s) (repeatMicro f n)

/-- Operations one after another, each whole (R97). -/
def execAll : List Instr → State → Outcome
  | [], s => .next s
  | i :: rest, s => andThen (exec i s) (execAll rest)

/-- Operations, each whole, and picks of the schedule, one after another. -/
def execBetween : List (Instr ⊕ Pick) → State → Outcome
  | [], s => .next s
  | .inl i :: rest, s => andThen (exec i s) (execBetween rest)
  | .inr p :: rest, s => andThen (runPick p s) (execBetween rest)

end Sys2Proof.Machine
end

