-- ==== Sys2Proof/Certificates/Slice0/Obligations.lean ====
section
/-! DEFINITION. The statements for the provers. Each docstring names the rule it formalises. Where a statement speaks of a next
state as a record, every field it does not name is unchanged: that is the operation's frame. A free value of `Config` is never
named by its value: where one is drawn the statement says that there is one within the rule's bound. -/

open Sys2Proof Sys2Proof.Machine

/-! ### Encoding -/

/-- R80 to R94: every well-formed operation, with every operand at every value, decodes from its own encoding. -/
def Obligations.DecodeOfEncodeIsTheOperation : Prop :=
  ∀ (p : Params) (i : Instr), i.wf p = true → decode p (encode p i) = .ok i

/-- R84, R91, R92, R94: what a word decodes to is well formed, and its encoding is the word with the fields that the operation
does not carry set to zero. -/
def Obligations.EncodeOfDecodeIsTheCanonicalWord : Prop :=
  ∀ (p : Params) (w : PortWord) (i : Instr), decode p w = .ok i → i.wf p = true ∧ encode p i = w.canonical

/-- Words of V-EN-1, V-EN-2 and of the tables of R91, R92, R94, under the default codes. -/
def Obligations.SpecWordsDecode : Prop :=
  ∀ d l : Nat, let p := Params.withOpen d l
    decode p (.setup 0x00070000000021A1#64) = .ok (.getLineCoding 0#16 0#16 7#16) ∧
    decode p (.setup 0x0007000000002021#64) = .ok (.setLineCoding 0#16 0#16 7#16) ∧
    decode p (.setup 0x0000000000012221#64) = .ok (.setControlLineState 1#16 0#16 0#16) ∧
    decode p (.setup 0xFFFFFFFFFFFF2221#64) = .ok (.setControlLineState 0xFFFF#16 0xFFFF#16 0xFFFF#16) ∧
    decode p (.setup 0x0012000001000680#64) = .ok (.ctrlUnhandled 0x0012000001000680#64) ∧
    decode p (.setup 0x00070000000020A1#64) = .ok (.ctrlUnhandled 0x00070000000020A1#64) ∧
    decode p (.setup 0x0000000000002121#64) = .ok (.ctrlUnhandled 0x0000000000002121#64) ∧
    decode p (.app ⟨0x5#4, 0#32, 0#16, 0, []⟩) = .ok .read ∧
    decode p (.app ⟨0x1#4, 1200#32, 6#16, 0, []⟩) = .ok (.openCfg 1200#32 6#16) ∧
    decode p (.app ⟨0xF#4, 0#32, 0#16, 0, []⟩) = .ok (.appReserved 0xF#4) ∧
    decode p (.usb ⟨0b01#2, 0#64⟩) = .ok .rxReady ∧
    decode p (.usb ⟨0b11#2, 0#64⟩) = .error .reservedEvent ∧
    decode p (.rb ⟨0b01#2, 0x5A#8⟩) = .ok (.rbWrite 0x5A#8) ∧
    decode p (.trig true) = .ok .pump

/-- R84: a packet selects a row by match and mask, in order; with the default codes only bytes 0 and 1 take part. -/
def Obligations.SetupRowsByMatchAndMask : Prop :=
  ∀ (d l : Nat) (w : SetupPacket),
    decodeSetup (Params.withOpen d l) w =
      if w &&& 0xFFFF#64 = 0x21A1#64 then .getLineCoding (w.extractLsb' 16 16) (w.extractLsb' 32 16) (w.extractLsb' 48 16)
      else if w &&& 0xFFFF#64 = 0x2021#64 then .setLineCoding (w.extractLsb' 16 16) (w.extractLsb' 32 16) (w.extractLsb' 48 16)
      else if w &&& 0xFFFF#64 = 0x2221#64 then
        .setControlLineState (w.extractLsb' 16 16) (w.extractLsb' 32 16) (w.extractLsb' 48 16)
      else .ctrlUnhandled w

/-- R87: `encodeLC` is the first seven bytes of the record, `decodeLC` reads them back with `le32`, and the two are inverse on
all values; with the examples of R87. -/
def Obligations.LineCodingBlockRoundTrips : Prop :=
  (∀ l : LineInfo, l.encodeLC.toBytes = [l.byte 0, l.byte 1, l.byte 2, l.byte 3, l.byte 4, l.byte 5, l.byte 6]) ∧
  (∀ (l : LineInfo) (b : LcBlock), (l.decodeLC b).dwDTERate.toNat =
    b.d0.toNat + 2 ^ 8 * b.d1.toNat + 2 ^ 16 * b.d2.toNat + 2 ^ 24 * b.d3.toNat ∧
    (l.decodeLC b).bCharFormat = b.d4 ∧ (l.decodeLC b).bParityType = b.d5 ∧ (l.decodeLC b).bDataBits = b.d6) ∧
  (∀ (l : LineInfo) (b : LcBlock), (l.decodeLC b).encodeLC = b) ∧
  (∀ l : LineInfo, l.decodeLC l.encodeLC = l) ∧
  (List.map (byteOf32 115200#32) [0, 1, 2, 3] = [0x00#8, 0xC2#8, 0x01#8, 0x00#8]) ∧
  (List.map (byteOf32 1200#32) [0, 1, 2, 3] = [0xB0#8, 0x04#8, 0x00#8, 0x00#8]) ∧
  (List.map (byteOf32 9600#32) [0, 1, 2, 3] = [0x80#8, 0x25#8, 0x00#8, 0x00#8])

/-- R93: the nine bits of an optional byte give it back, whatever a port shows where there is no byte; every byte is distinct
from `none`. -/
def Obligations.OptionalByteWordRoundTrips : Prop :=
  ∀ (pad : Byte) (r : Option Byte), readOptByte (optByteWord pad r) = r ∧
    (optByteWord pad r).getLsbD 8 = r.isSome ∧ ∀ b, r = some b → (optByteWord pad r).extractLsb' 0 8 = b

/-! ### Indices -/

/-- R9: the index successor. -/
def Obligations.IndexSuccessor : Prop :=
  ∀ C i : Nat, i < C → inc C i = (i + 1) % C ∧ inc C i = (if i = C - 1 then 0 else i + 1) ∧ inc C i < C

/-- R111: the predicates, the occupancy, and their consequences. -/
def Obligations.OccupancyLaws : Prop :=
  ∀ s : State, 2 ≤ s.params.C → s.ring.head < s.params.C → s.ring.tail < s.params.C →
    (s.empty = true ↔ s.ring.head = s.ring.tail) ∧
    (s.full = true ↔ inc s.params.C s.ring.head = s.ring.tail) ∧
    s.avail = (s.params.C + s.ring.head - s.ring.tail) % s.params.C ∧
    s.room = !s.full ∧
    s.avail ≤ s.params.C - 1 ∧
    (s.empty = true ↔ s.avail = 0) ∧
    (s.full = true ↔ s.avail = s.params.C - 1) ∧
    ¬(s.empty = true ∧ s.full = true)

/-- R6, R7: `W` bits hold `0..C-1`, and no fewer do. -/
def Obligations.IndexWidthIsCeilLogTwo : Prop :=
  ∀ p : Params, 2 ≤ p.C → 1 ≤ p.indexWidth ∧ p.C ≤ 2 ^ p.indexWidth ∧ 2 ^ (p.indexWidth - 1) < p.C

/-! ### Reset -/

/-- R40: the reset values, in any configuration, and the numbers of the default one. -/
def Obligations.ResetValues : Prop :=
  (∀ p : Params, let r := State.resetWith p
    r.params = p ∧ r.ring.head = 0 ∧ r.ring.tail = 0 ∧ (∀ a, r.ring.storage.get? a = none) ∧
    r.line = ⟨p.resetBaud, p.resetCharFormat, p.resetParity, p.resetDataBits, 0#8⟩ ∧
    r.writeError = false ∧ r.pump.req = false ∧ r.pump.phase = .idle ∧ r.ctl.phase = .idle ∧ r.app = .idle ∧
    r.env.nowMs = 0 ∧ r.env.rstPending = false ∧ r.env.rxq = [] ∧ r.env.rxReleased = true ∧
    r.env.ep0q = [] ∧ r.env.ctlIn = [] ∧ r.env.txlog = [] ∧ r.env.txFlushes = 0) ∧
  State.reset.line = ⟨0x0001C200#32, 0#8, 0#8, 8#8, 0#8⟩ ∧ State.reset.params.C = 1024

/-- R24, R40: the invariant holds after reset in every configuration. -/
def Obligations.ResetSatisfiesInv : Prop :=
  (∀ p : Params, p.ok = true → Inv (State.resetWith p)) ∧ Inv State.reset

/-- R41: the first answers after reset. -/
def Obligations.FirstAnswersAfterReset : Prop :=
  ∀ (d l : Nat) (v x n : BitVec 16) (q : SetupPacket), let r := State.resetWith (Params.withOpen d l)
    r.empty = true ∧ r.avail = 0 ∧ r.env.rstPending = false ∧
    (∃ t, exec .read r = .next t ∧ t.ports.respA = [.optByte none]) ∧
    (∃ t, exec .peek r = .next t ∧ t.ports.respA = [.optByte none]) ∧
    (∃ t, exec .avail r = .next t ∧ t.ports.respA = [.count 0]) ∧
    (∃ t, exec .isOpen r = .next t ∧ t.ports.respA = [.flag false]) ∧
    (∃ t, execAll [.setup q, .getLineCoding v x n] r = .next t ∧
      t.env.ctlIn = [[0x00#8, 0xC2#8, 0x01#8, 0x00#8, 0x00#8, 0x00#8, 0x08#8]])

/-- R240, R241, R243, R70: `rst` from any state, and Fire from any state in which a reset is pending and due, put every element of
R40 at its reset value; Fire that is not enabled changes nothing. The four values R40 leaves unspecified (the packet in hand, the
pump's and CTRL's locals, the deadline) are the model's choice, notes/assumptions/6.md; so are that the port records are emptied with
the logs (8.md), that the packets to come, the words on the ports and the model's own inputs are kept (25.md), that the resets are
counted (7.md), and that a Fire that is not enabled is a step that changes nothing (23.md). -/
def Obligations.ResetFromAnyState : Prop :=
  ∀ (s : State) (rest : List Pick), s.params.ok = true →
    let wiped : State :=
      { params := s.params
        ring := ⟨[], 0, 0⟩
        line := ⟨s.params.resetBaud, s.params.resetCharFormat, s.params.resetParity, s.params.resetDataBits, 0#8⟩
        writeError := false
        pump := ⟨false, .idle, 0, 0#8⟩
        ctl := ⟨.idle, 0#64, ⟨0#8, 0#8, 0#8, 0#8, 0#8, 0#8, 0#8⟩⟩
        app := .idle
        env := ⟨[], true, s.env.rxFuture, [], [], [], 0, 0, false, 0⟩
        ports := { s.ports with respA := [], respU := [], respR := [] }
        drive := { s.drive with schedule := rest, epoch := s.drive.epoch + 1 } }
    (s.drive.schedule = .rst :: rest → step s = .next wiped) ∧
    (s.drive.schedule = .fire :: rest → s.env.rstPending = true → s.env.rstDeadline ≤ s.env.nowMs → step s = .next wiped) ∧
    (s.drive.schedule = .fire :: rest → (s.env.rstPending = false ∨ s.env.nowMs < s.env.rstDeadline) →
      step s = .next { s with drive := { s.drive with schedule := rest } })

/-! ### The step -/

/-- R56, R80, R90, R133, R150: where the word on a port decodes and its agent can take it, the step runs the operation on the state
with the word and the pick taken; on port U an event is taken past every SETUP that waits before it, so an RX_READY always is. The
model's choices: a listed pick is run and, where none is listed, a free one (notes/assumptions/2.md); whole operations are picks
(13.md); port R carries words of its own (10.md). -/
def Obligations.StepRunsTheDecodedOperation : Prop :=
  ∀ (s : State) (rest : List Pick) (i : Instr), s.params.ok = true →
    let s' : State := { s with drive := { s.drive with schedule := rest } }
    (∀ r ws, s.drive.schedule = .appOp :: rest → s.app = .idle → s.ctl.phase ≠ .waitFifo → s.ports.portA = r :: ws →
      decode s.params (.app r) = .ok i → step s = exec i { s' with ports := { s.ports with portA := ws } }) ∧
    (∀ waits e ws, s.drive.schedule = .usbOp :: rest → s.ports.portU = waits ++ e :: ws →
      (∀ x ∈ waits, x.uEv = 0b10#2 ∧ s.ctl.phase ≠ .idle) → (e.uEv = 0b10#2 → s.ctl.phase = .idle) →
      decode s.params (.usb e) = .ok i → step s = exec i { s' with ports := { s.ports with portU := waits ++ ws } }) ∧
    (∀ r ws, s.drive.schedule = .rbOp :: rest → s.ports.portR = r :: ws → s.ctl.phase ≠ .waitFifo →
      (if r.rbOp = 0b01#2 then s.pump.phase = .idle else s.app = .idle) →
      decode s.params (.rb r) = .ok i → step s = exec i { s' with ports := { s.ports with portR := ws } }) ∧
    (s.drive.schedule = .ctrlOp :: rest → s.ctl.phase = .dispatch .t2 → decode s.params (.setup s.ctl.setup) = .ok i →
      step s = exec i s') ∧
    (s.drive.schedule = .pumpOp :: rest → s.pump.phase = .idle → s.ctl.phase ≠ .waitFifo →
      decode s.params (.trig s.pump.req) = .ok i → step s = exec i s') ∧
    (∀ p, s.drive.schedule = p :: rest → step s = runPick p s') ∧
    (s.drive.schedule = [] → ∃ p, step s = runPick p { s with drive := { s.drive with draws := s.drive.draws + 1 } })

/-- R212, R95, U15, U17: a state whose parameters break R7 is refused; a WRITE whose payload is not `a_len` bytes, or whose length
does not fit `LENW` bits, is refused where APP would take it; an event code 00 or 11 is passed over, behind waiting SETUPs too. Where
the refusals stand is read from U15 and U17 (notes/assumptions/14.md); of the two treatments that R95 and U5 allow of a reserved event
the model takes this one (22.md). -/
def Obligations.IllFormedInputs : Prop :=
  (∀ s : State, s.params.ok = false → step s = .refused .badConfiguration) ∧
  (∀ (s : State) (rest : List Pick) (pick : Pick) (r : AppRequest) (ws : List AppRequest), s.params.ok = true →
    (pick = .appOp ∨ pick = .appMicro) → s.drive.schedule = pick :: rest → s.app = .idle → s.ctl.phase ≠ .waitFifo →
    s.ports.portA = r :: ws → r.aOp = 0x6#4 → (r.aPayload.length ≠ r.aLen ∨ 2 ^ s.params.lenW ≤ r.aLen) →
    step s = .refused .malformedRequest) ∧
  (∀ (s : State) (rest : List Pick) (waits : List UsbEvent) (e : UsbEvent) (ws : List UsbEvent), s.params.ok = true →
    s.drive.schedule = .usbOp :: rest → s.ports.portU = waits ++ e :: ws →
    (∀ x ∈ waits, x.uEv = 0b10#2 ∧ s.ctl.phase ≠ .idle) → (e.uEv = 0b00#2 ∨ e.uEv = 0b11#2) →
    step s = .next { s with ports := { s.ports with portU := waits ++ ws }, drive := { s.drive with schedule := rest } })

/-- R90, U18, R183, R150: an operation whose agent cannot take it is not lost: it waits and nothing else changes. The model's choice:
the word goes back to the head of its port and the machine goes on (notes/assumptions/9.md, where U18 says refuse at that instant), a
request that is not in CTRL's hand waiting as the SETUP event that brings it (9.md), and port R waits like the others (10.md). -/
def Obligations.OperationWaitsForItsAgent : Prop :=
  ∀ s : State,
    (∀ i : Instr, i.format = .app → (s.app ≠ .idle ∨ s.ctl.phase = .waitFifo) →
      exec i s = .next { s with ports := { s.ports with portA := encodeApp i :: s.ports.portA } }) ∧
    (∀ (i : Instr) (w : RbRequest), (i = .rbAvail ∧ w = ⟨0b00#2, 0#8⟩ ∨ i = .rbRead ∧ w = ⟨0b10#2, 0#8⟩ ∨
        i = .rbPeek ∧ w = ⟨0b11#2, 0#8⟩) → (s.app ≠ .idle ∨ s.ctl.phase = .waitFifo) →
      exec i s = .next { s with ports := { s.ports with portR := w :: s.ports.portR } }) ∧
    (∀ b, (s.pump.phase ≠ .idle ∨ s.ctl.phase = .waitFifo) →
      exec (.rbWrite b) s = .next { s with ports := { s.ports with portR := ⟨0b01#2, b⟩ :: s.ports.portR } }) ∧
    (∀ q, s.ctl.phase ≠ .idle →
      exec (.setup q) s = .next { s with ports := { s.ports with portU := ⟨0b10#2, q⟩ :: s.ports.portU } }) ∧
    (∀ (i : Instr) (q : SetupPacket), encode s.params i = .setup q → s.ctl.phase ≠ .dispatch .t2 →
      exec i s = .next { s with ports := { s.ports with portU := ⟨0b10#2, q⟩ :: s.ports.portU } })

/-- R216 (a), (b), (c): during the stall no operation and no micro-step of PUMP or APP is enabled, no command, no primitive and no
SETUP is taken, and CTRL, while the data stage is not there, changes nothing. -/
def Obligations.StallHoldsEveryAgent : Prop :=
  ∀ (s : State) (p : Pick) (rest : List Pick), s.params.ok = true → s.ctl.phase = .waitFifo → s.drive.schedule = p :: rest →
    (p ∈ [Pick.appOp, .appMicro, .pumpOp, .pumpMicro, .rbOp] ∨
      (p = .usbOp ∧ ∀ e ∈ s.ports.portU, e.uEv = 0b10#2) ∨
      (p ∈ [Pick.ctrlOp, .ctrlMicro] ∧ s.env.ep0q.length < s.params.slcThreshold)) →
    step s = .next { s with drive := { s.drive with schedule := rest } }

/-- R161, R216 (d), (e), R254: whatever the schedule, a stall ends only by CTRL finding its data stage there, or by a reset. -/
def Obligations.StallEndsOnlyByDataOrReset : Prop :=
  ∀ s t : State, step s = .next t → s.ctl.phase = .waitFifo → t.ctl.phase ≠ .waitFifo →
    ((nextPick s).1 ∈ [Pick.ctrlOp, .ctrlMicro] ∧ s.params.slcThreshold ≤ s.env.ep0q.length) ∨
    (nextPick s).1 ∈ [Pick.rst, .fire]

/-- R169 (c), R216: a stall begins only in a SET_LINE_CODING that CTRL has in hand. -/
def Obligations.StallBeginsOnlyInSetLineCoding : Prop :=
  ∀ s t : State, Inv s → step s = .next t → s.ctl.phase ≠ .waitFifo → t.ctl.phase = .waitFifo →
    (nextPick s).1 ∈ [Pick.ctrlOp, .ctrlMicro] ∧ ∃ v x n, decodeSetup s.params s.ctl.setup = .setLineCoding v x n

/-! ### Ring Buffer -/

/-- R113, R185: RB_AVAIL (`rb_op` 00) and AVAIL (`a_op` 0x3) answer the occupancy, below `C`, and change nothing else. -/
def Obligations.AvailCountsAndChangesNothing : Prop :=
  (∀ (p : Params) (b : Byte), decode p (.rb ⟨0b00#2, b⟩) = .ok .rbAvail) ∧
  (∀ (p : Params) (x : BitVec 32) (c : BitVec 16) (n : Nat) (bs : Bytes), decode p (.app ⟨0x3#4, x, c, n, bs⟩) = .ok .avail) ∧
  ∀ s : State, s.app = .idle → s.ctl.phase ≠ .waitFifo → let n := (s.params.C + s.ring.head - s.ring.tail) % s.params.C
    exec .rbAvail s = .next { s with ports := { s.ports with respR := s.ports.respR ++ [.count n] } } ∧
    exec .avail s = .next { s with ports := { s.ports with respA := s.ports.respA ++ [.count n] } } ∧
    (0 < s.params.C → n < s.params.C)

/-- R116: RB_WRITE stores behind `head` when there is room, and refuses, changing nothing, when full. -/
def Obligations.RbWriteStoresOrRefuses : Prop :=
  ∀ (s : State) (b : Byte), s.pump.phase = .idle → s.ctl.phase ≠ .waitFifo →
    (inc s.params.C s.ring.head = s.ring.tail →
      exec (.rbWrite b) s = .next { s with ports := { s.ports with respR := s.ports.respR ++ [.ok false] } }) ∧
    (inc s.params.C s.ring.head ≠ s.ring.tail → s.ring.head < s.params.C →
      ∃ t, exec (.rbWrite b) s = .next t ∧ t.cell s.ring.head = b ∧ (∀ a, a ≠ s.ring.head → t.cell a = s.cell a) ∧
        t = { s with
          ring := { s.ring with storage := t.ring.storage, head := inc s.params.C s.ring.head }
          ports := { s.ports with respR := s.ports.respR ++ [.ok true] } })

/-- R118: RB_READ answers `none` and changes nothing when empty; otherwise it answers the byte at `tail`, advances `tail`, and
leaves every cell as it is. -/
def Obligations.RbReadDeliversTheOldest : Prop :=
  ∀ s : State, s.app = .idle → s.ctl.phase ≠ .waitFifo →
    (s.ring.head = s.ring.tail →
      exec .rbRead s = .next { s with ports := { s.ports with respR := s.ports.respR ++ [.opt none] } }) ∧
    (s.ring.head ≠ s.ring.tail → s.ring.tail < s.params.C →
      exec .rbRead s = .next { s with
        ring := { s.ring with tail := inc s.params.C s.ring.tail }
        ports := { s.ports with respR := s.ports.respR ++ [.opt (some (s.cell s.ring.tail))] } })

/-- R120, R188: RB_PEEK and PEEK answer the byte at `tail`, or `none` when empty, and change nothing else; so a second answers the
same. -/
def Obligations.PeekChangesNothing : Prop :=
  ∀ s : State, s.app = .idle → s.ctl.phase ≠ .waitFifo →
    let r : Option Byte := if s.ring.head = s.ring.tail then none else some (s.cell s.ring.tail)
    (s.ring.head = s.ring.tail ∨ s.ring.tail < s.params.C) →
      exec .rbPeek s = .next { s with ports := { s.ports with respR := s.ports.respR ++ [.opt r] } } ∧
      exec .peek s = .next { s with ports := { s.ports with respA := s.ports.respA ++ [.optByte r] } }

/-- R10, R21 and R24 exclude an access outside `0..C-1`, and no rule says what it does; that it stops the machine is the model's
choice, notes/assumptions/24.md. No run of the block makes one (InvStepsDoNotStop). -/
def Obligations.IndexOutOfRangeStops : Prop :=
  ∀ s : State, s.ctl.phase ≠ .waitFifo →
    (∀ i ∈ [Instr.rbRead, .rbPeek, .read, .peek], s.app = .idle → s.ring.head ≠ s.ring.tail → s.params.C ≤ s.ring.tail →
      exec i s = .fault .noSuchCell) ∧
    (∀ b, s.pump.phase = .idle → inc s.params.C s.ring.head ≠ s.ring.tail → s.params.C ≤ s.ring.head →
      exec (.rbWrite b) s = .fault .noSuchCell)

/-- R121, R114: the primitives over the sequence `Q` of unread bytes. -/
def Obligations.PrimitivesActOnTheUnreadSequence : Prop :=
  ∀ s : State, 2 ≤ s.params.C → s.ring.head < s.params.C → s.ring.tail < s.params.C → s.pump.phase = .idle → s.app = .idle →
    s.ctl.phase ≠ .waitFifo →
    s.unread.length = s.avail ∧
    (∀ b, s.unread.length < s.params.C - 1 → ∃ t, exec (.rbWrite b) s = .next t ∧ t.unread = s.unread ++ [b] ∧
      t.avail = s.avail + 1 ∧ t.ports.respR = s.ports.respR ++ [.ok true]) ∧
    (∀ b, s.unread.length = s.params.C - 1 → ∃ t, exec (.rbWrite b) s = .next t ∧ t.unread = s.unread ∧
      t.ports.respR = s.ports.respR ++ [.ok false]) ∧
    (∀ v q, s.unread = v :: q → ∃ t, exec .rbRead s = .next t ∧ t.unread = q ∧ t.avail + 1 = s.avail ∧
      t.ports.respR = s.ports.respR ++ [.opt (some v)]) ∧
    (s.unread = [] → ∃ t, exec .rbRead s = .next t ∧ t.unread = [] ∧ t.ports.respR = s.ports.respR ++ [.opt none]) ∧
    (∃ t, exec .rbPeek s = .next t ∧ t.unread = s.unread ∧ t.ports.respR = s.ports.respR ++ [.opt s.unread.head?]) ∧
    (∃ t, exec .rbAvail s = .next t ∧ t.unread = s.unread ∧ t.ports.respR = s.ports.respR ++ [.count s.unread.length])

/-- R122 (a), (b): from an empty buffer, writing a sequence that fits makes the count its length, and reading as many bytes then
gives exactly the sequence, in order, and leaves the buffer empty. -/
def Obligations.WritesThenReadsGiveTheSequence : Prop :=
  ∀ (s : State) (bs : Bytes), 2 ≤ s.params.C → s.ring.head < s.params.C → s.ring.tail = s.ring.head → s.pump.phase = .idle →
    s.app = .idle → s.ctl.phase ≠ .waitFifo → bs.length ≤ s.params.C - 1 →
    ∃ t u, execAll (bs.map Instr.rbWrite) s = .next t ∧ t.avail = bs.length ∧
      execAll (List.replicate bs.length .rbRead) t = .next u ∧ u.empty = true ∧
      u.ports.respR = s.ports.respR ++ bs.map (fun _ => .ok true) ++ bs.map (fun b => .opt (some b))

/-! ### Receive Pump -/

/-- R67, R136: RX_READY (`u_ev` 01) sets `pump_req` and nothing else, in every state; a packet arrives only at a released endpoint,
in one micro-step with its RX_READY, and an RX_READY presented on port U is that arrival (notes/assumptions/5.md). -/
def Obligations.RxReadyAndPacketArrival : Prop :=
  (∀ (p : Params) (q : SetupPacket), decode p (.usb ⟨0b01#2, q⟩) = .ok .rxReady) ∧
  (∀ s : State, exec .rxReady s = .next { s with pump := { s.pump with req := true } }) ∧
  (∀ (s : State) (p : Bytes) (rest : List Pick), s.params.ok = true →
    let s' : State := { s with drive := { s.drive with schedule := rest } }
    let t : State := { s' with
      pump := { s.pump with req := true }
      env := { s.env with rxq := p, rxReleased := false } }
    (s.drive.schedule = .pkt p :: rest → s.env.rxReleased = true → step s = .next t) ∧
    (∀ q future, (s.drive.schedule = .packet :: rest ∨ s.drive.schedule = .presentUsb ⟨0b01#2, q⟩ :: rest) →
      s.env.rxReleased = true → s.env.rxFuture = p :: future →
      step s = .next { t with env := { t.env with rxFuture := future } }) ∧
    (∀ q, (s.drive.schedule = .pkt p :: rest ∨ s.drive.schedule = .packet :: rest ∨
      s.drive.schedule = .presentUsb ⟨0b01#2, q⟩ :: rest) → s.env.rxReleased = false → step s = .next s'))

/-- R133, R134, R135, R137: a pass stores, in order, as many bytes of the held packet as there is room for, releases the endpoint
exactly when room is left after the last of them, and changes no other cell and nothing else. -/
def Obligations.PassStoresWhatFits : Prop :=
  ∀ s : State, 2 ≤ s.params.C → s.ring.head < s.params.C → s.ring.tail < s.params.C → s.pump.phase = .idle →
    s.pump.req = true → s.ctl.phase ≠ .waitFifo →
    let k := min (s.params.C - 1 - s.avail) s.env.rxq.length
    ∃ t, exec .pump s = .next t ∧
      t.unread = s.unread ++ s.env.rxq.take k ∧ t.env.rxq = s.env.rxq.drop k ∧
      t.ring.head = (s.ring.head + k) % s.params.C ∧
      t.env.rxReleased = (s.env.rxReleased || decide (s.env.rxq.length < s.params.C - 1 - s.avail)) ∧
      t.pump.req = false ∧ t.pump.phase = .idle ∧
      (∀ a, (∀ j, j < k → a ≠ (s.ring.head + j) % s.params.C) → t.cell a = s.cell a) ∧
      t = { s with
        ring := { s.ring with storage := t.ring.storage, head := t.ring.head }
        pump := t.pump
        env := { s.env with rxq := t.env.rxq, rxReleased := t.env.rxReleased } }

/-- R133: PUMP starts only when `pump_req = 1`, `pump_phase = IDLE` and `stall = 0`; otherwise there is no pass. -/
def Obligations.NoPassUnlessAsked : Prop :=
  ∀ s : State, (s.pump.req = false ∨ s.pump.phase ≠ .idle ∨ s.ctl.phase = .waitFifo) → exec .pump s = .next s

/-- R133: the micro-steps U0 to U6, none of them during a stall; the trigger of a pass is `pump_req`. -/
def Obligations.PumpMicroSteps : Prop :=
  (∀ p : Params, decode p (.trig true) = .ok .pump) ∧
  (∀ s : State, s.ctl.phase = .waitFifo → runPick .pumpMicro s = .next s) ∧
  ∀ s : State, s.ctl.phase ≠ .waitFifo →
    (s.pump.phase = .idle → s.pump.req = false → runPick .pumpMicro s = .next s) ∧
    (s.pump.phase = .idle → s.pump.req = true →
      runPick .pumpMicro s = .next { s with pump := { s.pump with req := false, phase := .run .u1 } }) ∧
    (s.pump.phase = .run .u1 → runPick .pumpMicro s = .next { s with
      pump := { s.pump with
        nextIndex := inc s.params.C s.ring.head
        phase := .run (if inc s.params.C s.ring.head = s.ring.tail then .u6 else .u2) } }) ∧
    (s.pump.phase = .run .u2 → s.env.rxq ≠ [] →
      runPick .pumpMicro s = .next { s with pump := { s.pump with phase := .run .u3 } }) ∧
    (s.pump.phase = .run .u2 → s.env.rxq = [] → runPick .pumpMicro s = .next { s with
      pump := { s.pump with phase := .run .u6 }
      env := { s.env with rxReleased := true } }) ∧
    (∀ b q, s.pump.phase = .run .u3 → s.env.rxq = b :: q → runPick .pumpMicro s = .next { s with
      pump := { s.pump with byte := b, phase := .run .u4 }
      env := { s.env with rxq := q } }) ∧
    (s.pump.phase = .run .u4 → s.ring.head < s.params.C → ∃ t, runPick .pumpMicro s = .next t ∧
      t.cell s.ring.head = s.pump.byte ∧ (∀ a, a ≠ s.ring.head → t.cell a = s.cell a) ∧
      t = { s with
        ring := { s.ring with storage := t.ring.storage }
        pump := { s.pump with phase := .run .u5 } }) ∧
    (s.pump.phase = .run .u5 → runPick .pumpMicro s = .next { s with
      ring := { s.ring with head := s.pump.nextIndex }
      pump := { s.pump with phase := .run .u1 } }) ∧
    (s.pump.phase = .run .u6 → runPick .pumpMicro s = .next { s with pump := { s.pump with phase := .idle } })

/-- R133, R56: a pass run whole is its micro-steps one after another (the two grains: notes/assumptions/13.md). -/
def Obligations.PassIsItsMicroSteps : Prop :=
  ∀ s : State, s.pump.phase = .idle → s.pump.req = true → s.ctl.phase ≠ .waitFifo →
    ∃ n, repeatMicro pumpMicro n s = exec .pump s

/-- R131, R132, over every step: `pump_req` goes from 0 to 1 only by a packet's RX_READY or by READ finding data after a byte; and from
1 to 0 only where PUMP begins a pass, idle and not stalled, or at a reset: a set is never lost. `PortInv`, which every run keeps, says
that no RX_READY stands on port U. -/
def Obligations.PassAskedOnlyByItsTriggers : Prop :=
  ∀ s t : State, PortInv s → step s = .next t →
    (s.pump.req = false → t.pump.req = true →
      (((nextPick s).1 = .packet ∨ (∃ p, (nextPick s).1 = .pkt p) ∨ ∃ e, (nextPick s).1 = .presentUsb e ∧ e.uEv = 0b01#2) ∧
        s.env.rxReleased = true ∧ t.env.rxReleased = false) ∨
      ((nextPick s).1 = .appOp ∧ s.empty = false ∧ s.env.rxq ≠ [] ∧ ∃ r ws, s.ports.portA = r :: ws ∧ r.aOp = 0x5#4) ∨
      ((nextPick s).1 = .appMicro ∧ s.env.rxq ≠ [] ∧ ∃ v, s.app = .readA3 v)) ∧
    (s.pump.req = true → t.pump.req = false →
      ((nextPick s).1 ∈ [Pick.pumpOp, .pumpMicro] ∧ s.pump.phase = .idle ∧ s.ctl.phase ≠ .waitFifo) ∨
      (nextPick s).1 ∈ [Pick.rst, .fire])

/-- R255: an endpoint left empty and unreleased, with no pass running or asked for, stays so under every step except a reset.
`PortInv`, which every run keeps, says that no RX_READY stands on port U. -/
def Obligations.UnreleasedEndpointStaysDead : Prop :=
  ∀ s t : State, PortInv s → step s = .next t → s.receiveDead = true → (nextPick s).1 ∉ [Pick.rst, .fire] →
    t.receiveDead = true

/-! ### Control requests -/

/-- R150, R68: an idle CTRL takes a SETUP event: the packet is latched, T2 is next, `ep0q` is emptied; the Ring Buffer, the pump and
port A are untouched. -/
def Obligations.SetupIsAccepted : Prop :=
  ∀ (s : State) (q : SetupPacket), s.ctl.phase = .idle →
    exec (.setup q) s = .next { s with
      ctl := { s.ctl with setup := q, phase := .dispatch .t2 }
      env := { s.env with ep0q := [] } }

/-- R156: a packet whose bytes 0, 1 are `A1 21` is GET_LINE_CODING, which offers the seven bytes, little-endian baud rate first, whatever the packet's other fields are, answers
handled, and changes no state of the block. -/
def Obligations.GetLineCodingAnswersSevenBytes : Prop :=
  (∀ (d l : Nat) (w : SetupPacket), w &&& 0xFFFF#64 = 0x21A1#64 →
    ∃ v x n, decodeSetup (Params.withOpen d l) w = .getLineCoding v x n) ∧
  ∀ (s : State) (v x n : BitVec 16), s.ctl.phase = .dispatch .t2 →
    exec (.getLineCoding v x n) s = .next { s with
      ctl := { s.ctl with phase := .idle }
      env := { s.env with ctlIn := s.env.ctlIn ++ [[s.line.dwDTERate.extractLsb' 0 8, s.line.dwDTERate.extractLsb' 8 8,
        s.line.dwDTERate.extractLsb' 16 8, s.line.dwDTERate.extractLsb' 24 8,
        s.line.bCharFormat, s.line.bParityType, s.line.bDataBits]] }
      ports := { s.ports with respU := s.ports.respU ++ [true] } }

/-- R160: a packet whose bytes 0, 1 are `21 20` is SET_LINE_CODING, which, with the data stage there, takes its first seven bytes into the record and answers handled; without, it
stalls, and a stalled one does the same when CTRL finds the data there. `lineState` and everything else is untouched. -/
def Obligations.SetLineCodingStoresSevenBytes : Prop :=
  (∀ (d l : Nat) (w : SetupPacket), w &&& 0xFFFF#64 = 0x2021#64 →
    ∃ v x n, decodeSetup (Params.withOpen d l) w = .setLineCoding v x n) ∧
  ∀ (s : State) (v x n : BitVec 16),
    (s.ctl.phase = .dispatch .t2 → s.env.ep0q.length < s.params.slcThreshold →
      exec (.setLineCoding v x n) s = .next { s with ctl := { s.ctl with phase := .waitFifo } }) ∧
    ∀ d0 d1 d2 d3 d4 d5 d6 q, s.env.ep0q = d0 :: d1 :: d2 :: d3 :: d4 :: d5 :: d6 :: q →
      s.params.slcThreshold ≤ s.env.ep0q.length →
      let t : State := { s with
        line := ⟨d3 ++ d2 ++ d1 ++ d0, d4, d5, d6, s.line.lineState⟩
        ctl := { s.ctl with phase := .idle, pulled := ⟨d0, d1, d2, d3, d4, d5, d6⟩ }
        env := { s.env with ep0q := q }
        ports := { s.ports with respU := s.ports.respU ++ [true] } }
      (s.ctl.phase = .dispatch .t2 → exec (.setLineCoding v x n) s = .next t) ∧
      (s.ctl.phase = .waitFifo → runPick .ctrlOp s = .next t)

/-- R163, R164: a packet whose bytes 0, 1 are `21 22` is SET_CONTROL_LINE_STATE, which writes the low byte of `wValue`, then, only at the magic baud rate, schedules a reset when DTR
is 0 and cancels when it is 1; it answers handled. -/
def Obligations.SetControlLineStateAndHeuristic : Prop :=
  (∀ (d l : Nat) (w : SetupPacket), w &&& 0xFFFF#64 = 0x2221#64 →
    decodeSetup (Params.withOpen d l) w = .setControlLineState (wValue w) (wIndex w) (wLength w)) ∧
  (∀ w : SetupPacket, (wValue w).extractLsb' 0 8 = w.extractLsb' 16 8) ∧
  ∀ (s : State) (v x n : BitVec 16), s.ctl.phase = .dispatch .t2 →
    let ls : Byte := v.extractLsb' 0 8
    exec (.setControlLineState v x n) s = .next { s with
      line := { s.line with lineState := ls }
      ctl := { s.ctl with phase := .idle }
      env := if s.line.dwDTERate = s.params.magicBaud then
          if ls.getLsbD 0 = false then
            { s.env with rstPending := true, rstDeadline := s.env.nowMs + s.params.resetDelayMs }
          else { s.env with rstPending := false }
        else s.env
      ports := { s.ports with respU := s.ports.respU ++ [true] } }

/-- R168: a packet that matches none of the three handled requests is declined with no state change. -/
def Obligations.UnhandledIsDeclined : Prop :=
  (∀ (d l : Nat) (w : SetupPacket), w &&& 0xFFFF#64 ∉ [0x21A1#64, 0x2021#64, 0x2221#64] →
    decodeSetup (Params.withOpen d l) w = .ctrlUnhandled w) ∧
  ∀ (s : State) (q : SetupPacket), s.ctl.phase = .dispatch .t2 →
    exec (.ctrlUnhandled q) s = .next { s with
      ctl := { s.ctl with phase := .idle }
      ports := { s.ports with respU := s.ports.respU ++ [false] } }

/-- R169 (d): a SET_LINE_CODING with data `D` there, at once or after its wait, ends; a GET_LINE_CODING that follows it, whatever
operations and whatever steps of ENV other than a reset come between, no other SET_LINE_CODING among them, answers exactly `D`; and
the one that comes next is among these. -/
def Obligations.GetAnswersWhatSetStored : Prop :=
  ∀ (s : State) (v x n v' x' n' : BitVec 16) (d0 d1 d2 d3 d4 d5 d6 : Byte) (rest : Bytes),
    s.env.ep0q = d0 :: d1 :: d2 :: d3 :: d4 :: d5 :: d6 :: rest → s.params.slcThreshold ≤ s.env.ep0q.length →
    (s.ctl.phase = .dispatch .t2 ∨ s.ctl.phase = .waitFifo) →
    ∃ t, (s.ctl.phase = .dispatch .t2 → exec (.setLineCoding v x n) s = .next t) ∧
      (s.ctl.phase = .waitFifo → runPick .ctrlOp s = .next t) ∧
      (∀ (between : List (Instr ⊕ Pick)) (u : State),
        (∀ i, .inl i ∈ between → ∀ a b c, i ≠ .setLineCoding a b c) →
        (∀ p, .inr p ∈ between → (∃ bs, p = .data bs) ∨ (∃ bs, p = .pkt bs) ∨ p ∈ [Pick.packet, .tick, .appMicro, .pumpMicro]) →
        execBetween between t = .next u → u.ctl.phase = .dispatch .t2 →
        ∃ w, exec (.getLineCoding v' x' n') u = .next w ∧ w.env.ctlIn = u.env.ctlIn ++ [[d0, d1, d2, d3, d4, d5, d6]]) ∧
      ∀ q, ∃ w, execAll [.setup q, .getLineCoding v' x' n'] t = .next w ∧
        w.env.ctlIn = s.env.ctlIn ++ [[d0, d1, d2, d3, d4, d5, d6]]

/-- R169 (a), (b), (c), (e), over every operation of the block: what each may change of LineInfo, of the pending reset, of the stall;
and that a control request leaves the Ring Buffer, the pump and `writeError` alone. -/
def Obligations.ControlStateHasOneWriterEach : Prop :=
  ∀ (i : Instr) (s t : State), exec i s = .next t →
    ({ t.line with lineState := s.line.lineState } ≠ s.line → ∃ v x n, i = .setLineCoding v x n) ∧
    (t.line.lineState ≠ s.line.lineState → ∃ v x n, i = .setControlLineState v x n) ∧
    ((t.env.rstPending ≠ s.env.rstPending ∨ t.env.rstDeadline ≠ s.env.rstDeadline) →
      ∃ v x n, i = .setControlLineState v x n) ∧
    (s.ctl.phase ≠ .waitFifo → t.ctl.phase = .waitFifo → ∃ v x n, i = .setLineCoding v x n) ∧
    (i.format = .setup → t.ring = s.ring ∧ t.pump = s.pump ∧ t.writeError = s.writeError ∧ t.app = s.app)

/-- R164, R166, R70, over every step: a reset becomes pending only by SET_CONTROL_LINE_STATE at the magic baud rate, whole or by its
step L2, and stops being pending only so or by a reset. `CtlInv`, which every run keeps, says that a label of CTRL belongs to the
request that the packet in hand selects. -/
def Obligations.PendingResetChangesOnlyByHeuristic : Prop :=
  ∀ s t : State, CtlInv s → step s = .next t → t.env.rstPending ≠ s.env.rstPending →
    (((nextPick s).1 = .ctrlOp ∧ s.ctl.phase = .dispatch .t2 ∨ (nextPick s).1 = .ctrlMicro ∧ s.ctl.phase = .dispatch .l2) ∧
      (∃ v x n, decodeSetup s.params s.ctl.setup = .setControlLineState v x n) ∧
      s.line.dwDTERate = s.params.magicBaud ∧ t.env.rstPending = !t.line.lineState.getLsbD 0) ∨
    ((nextPick s).1 ∈ [Pick.rst, .fire] ∧ t.env.rstPending = false)

/-- R150, R156, R160, R163, R168: the micro-steps of CTRL. -/
def Obligations.ControlMicroSteps : Prop :=
  ∀ s : State,
    let goes (ph : CtlPhase) : State := { s with ctl := { s.ctl with phase := ph } }
    let ends (h : Bool) : State := { goes .idle with ports := { s.ports with respU := s.ports.respU ++ [h] } }
    (s.ctl.phase = .idle → runPick .ctrlMicro s = .next s) ∧
    (∀ v x n, s.ctl.phase = .dispatch .t2 → decodeSetup s.params s.ctl.setup = .getLineCoding v x n →
      runPick .ctrlMicro s = .next (goes (.dispatch .g1))) ∧
    (∀ v x n, s.ctl.phase = .dispatch .t2 → decodeSetup s.params s.ctl.setup = .setLineCoding v x n →
      runPick .ctrlMicro s = .next (goes (.dispatch .s1))) ∧
    (∀ v x n, s.ctl.phase = .dispatch .t2 → decodeSetup s.params s.ctl.setup = .setControlLineState v x n →
      runPick .ctrlMicro s = .next (goes (.dispatch .l1))) ∧
    (∀ q, s.ctl.phase = .dispatch .t2 → decodeSetup s.params s.ctl.setup = .ctrlUnhandled q →
      runPick .ctrlMicro s = .next (goes (.dispatch .n1))) ∧
    (s.ctl.phase = .dispatch .g1 → runPick .ctrlMicro s = .next { goes (.dispatch .g2) with
      env := { s.env with ctlIn := s.env.ctlIn ++ [s.line.encodeLC.toBytes] } }) ∧
    (s.ctl.phase = .dispatch .s1 → runPick .ctrlMicro s = .next (goes .waitFifo)) ∧
    (s.ctl.phase = .waitFifo → s.params.slcThreshold ≤ s.env.ep0q.length →
      runPick .ctrlMicro s = .next (goes (.dispatch .s3))) ∧
    (s.ctl.phase = .waitFifo → s.env.ep0q.length < s.params.slcThreshold → runPick .ctrlMicro s = .next s) ∧
    (∀ d0 d1 d2 d3 d4 d5 d6 q, s.ctl.phase = .dispatch .s3 →
      s.env.ep0q = d0 :: d1 :: d2 :: d3 :: d4 :: d5 :: d6 :: q → runPick .ctrlMicro s = .next { s with
        ctl := { s.ctl with phase := .dispatch .s4, pulled := ⟨d0, d1, d2, d3, d4, d5, d6⟩ }
        env := { s.env with ep0q := q } }) ∧
    (s.ctl.phase = .dispatch .s4 → runPick .ctrlMicro s = .next { goes (.dispatch .s5) with
      line := s.line.decodeLC s.ctl.pulled }) ∧
    (s.ctl.phase = .dispatch .l1 → runPick .ctrlMicro s = .next { goes (.dispatch .l2) with
      line := { s.line with lineState := s.ctl.setup.extractLsb' 16 8 } }) ∧
    (s.ctl.phase = .dispatch .l2 → runPick .ctrlMicro s = .next { goes (.dispatch .l3) with
      env := if s.line.dwDTERate = s.params.magicBaud then
          if s.line.lineState.getLsbD 0 = false then
            { s.env with rstPending := true, rstDeadline := s.env.nowMs + s.params.resetDelayMs }
          else { s.env with rstPending := false }
        else s.env }) ∧
    (s.ctl.phase ∈ [CtlPhase.dispatch .g2, .dispatch .s5, .dispatch .l3] → runPick .ctrlMicro s = .next (ends true)) ∧
    (s.ctl.phase = .dispatch .n1 → runPick .ctrlMicro s = .next (ends false))

/-- R56, R150 to R168: a request run whole, from its decoding to its end or to its stall, is its micro-steps one after another (the
two grains: notes/assumptions/13.md). -/
def Obligations.RequestIsItsMicroSteps : Prop :=
  ∀ s : State, s.ctl.phase = .dispatch .t2 → ∃ n, repeatMicro ctlMicro n s = exec (decodeSetup s.params s.ctl.setup) s

/-! ### Serial-Port Facade -/

/-- R180, R181, R182: OPEN (`a_op` 0x0), OPEN_CFG (0x1, whatever its operands) and CLOSE (0x2) answer nothing and change nothing. -/
def Obligations.OpenAndCloseAreNoOps : Prop :=
  (∀ (p : Params) (x : BitVec 32) (c : BitVec 16) (n : Nat) (bs : Bytes), decode p (.app ⟨0x0#4, x, c, n, bs⟩) = .ok .openPort ∧
    decode p (.app ⟨0x1#4, x, c, n, bs⟩) = .ok (.openCfg x c) ∧ decode p (.app ⟨0x2#4, x, c, n, bs⟩) = .ok .closePort) ∧
  ∀ (s : State) (baud : BitVec 32) (cfg : BitVec 16), s.app = .idle → s.ctl.phase ≠ .waitFifo →
    ∀ i ∈ [Instr.openPort, .openCfg baud cfg, .closePort],
      exec i s = .next { s with ports := { s.ports with respA := s.ports.respA ++ [.nothing] } }

/-- R191: READ consumes one byte, and asks for a pass if the endpoint then has data; on an empty buffer it answers `none`, with no
trigger. -/
def Obligations.ReadConsumesAndTriggers : Prop :=
  ∀ s : State, s.app = .idle → s.ctl.phase ≠ .waitFifo →
    (s.ring.head = s.ring.tail →
      exec .read s = .next { s with ports := { s.ports with respA := s.ports.respA ++ [.optByte none] } }) ∧
    (s.ring.head ≠ s.ring.tail → s.ring.tail < s.params.C →
      exec .read s = .next { s with
        ring := { s.ring with tail := inc s.params.C s.ring.tail }
        pump := { s.pump with req := s.pump.req || !s.env.rxq.isEmpty }
        ports := { s.ports with respA := s.ports.respA ++ [.optByte (some (s.cell s.ring.tail))] } })

/-- R197, R69: WRITE (`a_op` 0x6, `a_len` bytes of payload) on an answer of the collaborator: a count of at least one is returned and that many bytes are logged; `FAIL`,
zero or a negative number gives 0 and sets the flag; the flag is never cleared here. A listed answer above the length stops (U7);
where none is listed there is some answer `FAIL` or `0..n`. -/
def Obligations.WriteReturnsTheAcceptedCount : Prop :=
  (∀ (p : Params) (x : BitVec 32) (c : BitVec 16) (bs : Bytes), p.lengthFits bs.length = true →
    decode p (.app ⟨0x6#4, x, c, bs.length, bs⟩) = .ok (.write bs)) ∧
  ∀ (s : State) (bs : Bytes), s.app = .idle → s.ctl.phase ≠ .waitFifo →
    let done (k : Nat) (d : Drive) : State := { s with
      writeError := s.writeError || decide (k = 0)
      env := { s.env with txlog := s.env.txlog ++ bs.take k }
      ports := { s.ports with respA := s.ports.respA ++ [.sent k] }
      drive := d }
    (∀ answers, s.drive.sendAnswers = .fail :: answers →
      exec (.write bs) s = .next (done 0 { s.drive with sendAnswers := answers })) ∧
    (∀ (r : Int) answers, s.drive.sendAnswers = .count r :: answers → r.toNat ≤ bs.length →
      exec (.write bs) s = .next (done r.toNat { s.drive with sendAnswers := answers })) ∧
    (∀ (r : Int) answers, s.drive.sendAnswers = .count r :: answers → bs.length < r.toNat →
      exec (.write bs) s = .fault .sentMoreThanOffered) ∧
    (s.drive.sendAnswers = [] → ∃ k, k ≤ bs.length ∧
      exec (.write bs) s = .next (done k { s.drive with draws := s.drive.draws + 1 }))

/-- R199, R203, R204, R206: FLUSH (`a_op` 0x7) counts one call; GETWERR (0x9) answers the flag and leaves it; CLRWERR (0xA) clears
it; a reserved code (0xB to 0xF) answers `err = 1` and changes nothing, the one of the two treatments of R95 and U4 that the model
takes (notes/assumptions/22.md). -/
def Obligations.FlushAndFlagCommands : Prop :=
  (∀ (p : Params) (x : BitVec 32) (c : BitVec 16) (n : Nat) (bs : Bytes), decode p (.app ⟨0x7#4, x, c, n, bs⟩) = .ok .flush ∧
    decode p (.app ⟨0x9#4, x, c, n, bs⟩) = .ok .getWerr ∧ decode p (.app ⟨0xA#4, x, c, n, bs⟩) = .ok .clrWerr ∧
    ∀ op : BitVec 4, 0xB#4 ≤ op → decode p (.app ⟨op, x, c, n, bs⟩) = .ok (.appReserved op)) ∧
  ∀ (s : State) (op : BitVec 4), s.app = .idle → s.ctl.phase ≠ .waitFifo →
    let said (r : AppResponse) : Ports := { s.ports with respA := s.ports.respA ++ [r] }
    exec .flush s = .next { s with ports := said .nothing, env := { s.env with txFlushes := s.env.txFlushes + 1 } } ∧
    exec .getWerr s = .next { s with ports := said (.flag s.writeError) } ∧
    exec .clrWerr s = .next { s with ports := said .nothing, writeError := false } ∧
    exec (.appReserved op) s = .next { s with ports := said (.err true) }

/-- R200: ISOPEN answers false at once during the hold-off; after it, it samples the line state now (`early`) or later and delays;
its last step, enabled when the delay is over, answers whether the sampled byte is not zero. -/
def Obligations.IsOpenHoldsOffThenDelays : Prop :=
  ∀ s : State, s.ctl.phase ≠ .waitFifo →
    (s.app = .idle → s.env.nowMs < s.params.bootHoldoffMs →
      exec .isOpen s = .next { s with ports := { s.ports with respA := s.ports.respA ++ [.flag false] } }) ∧
    (∀ early draws, s.app = .idle → s.params.bootHoldoffMs ≤ s.env.nowMs → s.drive.earlyDraws = early :: draws →
      exec .isOpen s = .next { s with
        app := .isOpenA4 s.env.nowMs (if early then some s.line.lineState else none)
        drive := { s.drive with earlyDraws := draws } }) ∧
    (s.app = .idle → s.params.bootHoldoffMs ≤ s.env.nowMs → s.drive.earlyDraws = [] →
      ∃ early : Bool, exec .isOpen s = .next { s with
        app := .isOpenA4 s.env.nowMs (if early then some s.line.lineState else none)
        drive := { s.drive with draws := s.drive.draws + 1 } }) ∧
    (∀ t0 sample, s.app = .isOpenA4 t0 sample → t0 + s.params.settleMs ≤ s.env.nowMs →
      runPick .appMicro s = .next { s with
        app := .idle
        ports := { s.ports with respA := s.ports.respA ++ [.flag (decide (0 < (sample.getD s.line.lineState).toNat))] } }) ∧
    (∀ t0 sample, s.app = .isOpenA4 t0 sample → s.env.nowMs < t0 + s.params.settleMs → runPick .appMicro s = .next s)

/-- R183, R191, R118: APP takes a command as a micro-step of its own, and READ is D1, D2, D3, A2, A3, A4, the read of the cell before
the write of `tail`. -/
def Obligations.ReadMicroSteps : Prop :=
  ∀ s : State, s.ctl.phase ≠ .waitFifo →
    let goes (ph : AppPhase) : State := { s with app := ph }
    let tells (r : Option Byte) : State :=
      { s with app := .idle, ports := { s.ports with respA := s.ports.respA ++ [.optByte r] } }
    (∀ r ws i, s.app = .idle → s.ports.portA = r :: ws → decode s.params (.app r) = .ok i →
      runPick .appMicro s = .next { s with app := .taken i, ports := { s.ports with portA := ws } }) ∧
    (s.app = .idle → s.ports.portA = [] → runPick .appMicro s = .next s) ∧
    (s.app = .taken .read → runPick .appMicro s =
      .next (goes (if s.ring.head = s.ring.tail then .readA2 none else .readD2))) ∧
    (s.app = .readD2 → s.ring.tail < s.params.C → runPick .appMicro s = .next (goes (.readD3 (s.cell s.ring.tail)))) ∧
    (∀ v, s.app = .readD3 v → runPick .appMicro s = .next { s with
      app := .readA2 (some v), ring := { s.ring with tail := inc s.params.C s.ring.tail } }) ∧
    (s.app = .readA2 none → runPick .appMicro s = .next (tells none)) ∧
    (∀ v, s.app = .readA2 (some v) → runPick .appMicro s = .next (goes (.readA3 v))) ∧
    (∀ v, s.app = .readA3 v → runPick .appMicro s = .next { s with
      app := .readA4 v, pump := { s.pump with req := s.pump.req || !s.env.rxq.isEmpty } }) ∧
    (∀ v, s.app = .readA4 v → runPick .appMicro s = .next (tells (some v)))

/-- R56, R183: a command run whole, from its taking to its end, is its micro-steps one after another (the two grains:
notes/assumptions/13.md); that ISOPEN run whole ends at its delay is the model's choice (11.md). -/
def Obligations.CommandIsItsMicroSteps : Prop :=
  ∀ (s : State) (r : AppRequest) (ws : List AppRequest) (i : Instr), s.app = .idle → s.ctl.phase ≠ .waitFifo →
    s.ports.portA = r :: ws → decode s.params (.app r) = .ok i →
    ∃ n, repeatMicro appMicro n s = exec i { s with ports := { s.ports with portA := ws } }

/-- R32, R207 (h), over every step: `writeError` is set only by WRITE and cleared only by CLRWERR or a reset. -/
def Obligations.WriteErrorIsSticky : Prop :=
  ∀ s t : State, step s = .next t →
    (s.writeError = false → t.writeError = true →
      ((nextPick s).1 = .appOp ∧ ∃ r ws, s.ports.portA = r :: ws ∧ r.aOp = 0x6#4) ∨
      ((nextPick s).1 = .appMicro ∧ ∃ r, s.app = .writeA2 r)) ∧
    (s.writeError = true → t.writeError = false →
      ((nextPick s).1 = .appOp ∧ ∃ r ws, s.ports.portA = r :: ws ∧ r.aOp = 0xA#4) ∨
      ((nextPick s).1 = .appMicro ∧ s.app = .taken .clrWerr) ∨
      (nextPick s).1 ∈ [Pick.rst, .fire])

/-- R207 (i): the transmit side cannot be seen from the receive side: with any other log, flush count and flag, READ, PEEK, AVAIL, the
primitives and PUMP do the same and answer the same. And conversely: with any other Ring Buffer, packet held and `pump_req`, WRITE,
FLUSH, GETWERR and CLRWERR do. -/
def Obligations.ReceiveSideIgnoresTransmitSide : Prop :=
  (∀ (s t : State) (log : Bytes) (flushes : Nat) (werr : Bool),
    let other (u : State) : State := { u with writeError := werr, env := { u.env with txlog := log, txFlushes := flushes } }
    ∀ (b : Byte), ∀ i ∈ [Instr.read, .peek, .avail, .rbRead, .rbPeek, .rbAvail, .rbWrite b, .pump],
      exec i s = .next t → exec i (other s) = .next (other t)) ∧
  ∀ (s t : State) (ring : Ring) (held : Bytes) (released req : Bool) (bs : Bytes),
    let other (u : State) : State := { u with
      ring := ring, pump := { u.pump with req := req }, env := { u.env with rxq := held, rxReleased := released } }
    ∀ i ∈ [Instr.write bs, .flush, .getWerr, .clrWerr], exec i s = .next t → exec i (other s) = .next (other t)

/-- R61, R69, over every step: bytes once accepted by the transmit endpoint stay, in order, and new ones are added behind them. -/
def Obligations.TransmitLogOnlyGrows : Prop :=
  ∀ s t : State, step s = .next t → (∃ bs, t.env.txlog = s.env.txlog ++ bs) ∨
    ((nextPick s).1 ∈ [Pick.rst, .fire] ∧ t.env.txlog = [])

/-! ### The whole machine -/

/-- R39, R224, R12, over every step: each field has one writing agent; a reset apart, which writes all. -/
def Obligations.OneWriterPerField : Prop :=
  ∀ s t : State, step s = .next t →
    t.params = s.params ∧
    ((t.ring.head ≠ s.ring.head ∨ t.ring.storage ≠ s.ring.storage) →
      (nextPick s).1 ∈ [Pick.pumpOp, .pumpMicro, .rst, .fire] ∨
      ((nextPick s).1 = .rbOp ∧ ∃ r ws, s.ports.portR = r :: ws ∧ r.rbOp = 0b01#2)) ∧
    (t.ring.tail ≠ s.ring.tail →
      (nextPick s).1 ∈ [Pick.appOp, .appMicro, .rst, .fire] ∨
      ((nextPick s).1 = .rbOp ∧ ∃ r ws, s.ports.portR = r :: ws ∧ r.rbOp = 0b10#2)) ∧
    (t.line ≠ s.line → (nextPick s).1 ∈ [Pick.ctrlOp, .ctrlMicro, .rst, .fire]) ∧
    (t.writeError ≠ s.writeError → (nextPick s).1 ∈ [Pick.appOp, .appMicro, .rst, .fire]) ∧
    (t.env.nowMs ≠ s.env.nowMs → (nextPick s).1 ∈ [Pick.tick, .rst, .fire])

/-- R68, R70: data arrival and Tick, enabled always. -/
def Obligations.DataArrivalAndTick : Prop :=
  ∀ (s : State) (rest : List Pick), s.params.ok = true →
    let s' : State := { s with drive := { s.drive with schedule := rest } }
    (∀ bs, s.drive.schedule = .data bs :: rest →
      step s = .next { s' with env := { s.env with ep0q := s.env.ep0q ++ bs } }) ∧
    (s.drive.schedule = .tick :: rest → step s = .next { s' with env := { s.env with nowMs := s.env.nowMs + 1 } })

/-- R24, R60, R66, R133, R160: every step, at either grain and under every schedule, keeps the invariant. -/
def Obligations.StepKeepsInv : Prop :=
  ∀ s t : State, Inv s → step s = .next t → Inv t

/-- R66, R135 (d), R212, U1, U3: from the invariant no step reads an empty endpoint or a cell that is not there; the machine stops
only on a listed answer of `sendBytes` above the length offered, or on a command that is ill formed. -/
def Obligations.InvStepsDoNotStop : Prop :=
  ∀ s : State, Inv s →
    (∀ e, step s = .fault e → e = .sentMoreThanOffered ∧ s.drive.sendAnswers ≠ []) ∧
    (∀ e, step s = .refused e → e = .malformedRequest ∧ ∃ r ws, s.ports.portA = r :: ws ∧ r.wf s.params = false)

/-- R61, R60, R135 (b), U1: no received byte is lost, repeated or reordered, under every schedule. A step leaves the received and
unconsumed bytes as they are, or delivers the first of them, or adds an arriving packet behind them, or is an RB_WRITE of port R,
or a reset. -/
def Obligations.ReceivedBytesKeepTheirOrder : Prop :=
  ∀ s t : State, Inv s → step s = .next t →
    t.stream = s.stream ∨
    (∃ b, s.stream = b :: t.stream ∧ s.empty = false ∧ t.ring.tail = inc s.params.C s.ring.tail ∧
      (t.ports.respA = s.ports.respA ++ [.optByte (some b)] ∨ t.ports.respR = s.ports.respR ++ [.opt (some b)] ∨
        t.app = .readA2 (some b))) ∨
    (s.env.rxReleased = true ∧ t.env.rxReleased = false ∧ t.stream = s.stream ++ t.env.rxq) ∨
    (∃ r ws, (nextPick s).1 = .rbOp ∧ s.ports.portR = r :: ws ∧ r.rbOp = 0b01#2 ∧ t.unread = s.unread ++ [r.rbData] ∧
      t.inFlight = s.inFlight ∧ t.env.rxq = s.env.rxq) ∨
    ((nextPick s).1 ∈ [Pick.rst, .fire] ∧ t.stream = [])

/-- R245, R161, R70: where no step of CTRL, APP or PUMP is enabled and nothing is stalled, the block is quiescent, or an ISOPEN waits
for its delay, which time alone ends; and an enabled step is an agent's, never ENV's. -/
def Obligations.NothingEnabledIsQuiescent : Prop :=
  ∀ s : State, Inv s →
    (nextEnabled s = none → s.stall = false →
      s.quiescent = true ∨ ∃ t0 sample, s.app = .isOpenA4 t0 sample ∧ s.env.nowMs < t0 + s.params.settleMs) ∧
    (s.quiescent = true → nextEnabled s ∈ [none, some Pick.usbOp, some .appMicro, some .rbOp]) ∧
    ∀ p, nextEnabled s = some p → p ∈ [Pick.ctrlMicro, .usbOp, .appMicro, .rbOp, .pumpMicro]

/-- R245, R135 (a), R183 (d), R270: with no step of ENV the block comes to rest, whatever order its agents step in: every enabled step of
CTRL, APP or PUMP that answers a next state, any of them, makes the bound `work` smaller. So the run that a trace takes, which is the
one order of notes/assumptions/26.md (the model's choice), ends, stops apart, where none is enabled. -/
def Obligations.SettlingEnds : Prop :=
  ∀ s : State,
    (∀ p t, s.enabled p = true → runPick p s = .next t → t.work < s.work) ∧
    (∀ t, settle s = .next t → ∀ p, t.enabled p = false)
end

