-- ==== Sys2Proof/Laws/State.lean ====
section
/-! SUPPORT. One lemma per field per named update of State, true by rfl, so that no proof unfolds an update. -/

namespace Sys2Proof.Machine

/-! ### setHead -/

@[simp] theorem State.setHead_params (s : State) (n : Nat) : (s.setHead n).params = s.params := rfl
@[simp] theorem State.setHead_ring (s : State) (n : Nat) : (s.setHead n).ring = { s.ring with head := n } := rfl
@[simp] theorem State.setHead_line (s : State) (n : Nat) : (s.setHead n).line = s.line := rfl
@[simp] theorem State.setHead_writeError (s : State) (n : Nat) : (s.setHead n).writeError = s.writeError := rfl
@[simp] theorem State.setHead_pump (s : State) (n : Nat) : (s.setHead n).pump = s.pump := rfl
@[simp] theorem State.setHead_ctl (s : State) (n : Nat) : (s.setHead n).ctl = s.ctl := rfl
@[simp] theorem State.setHead_app (s : State) (n : Nat) : (s.setHead n).app = s.app := rfl
@[simp] theorem State.setHead_env (s : State) (n : Nat) : (s.setHead n).env = s.env := rfl
@[simp] theorem State.setHead_ports (s : State) (n : Nat) : (s.setHead n).ports = s.ports := rfl
@[simp] theorem State.setHead_drive (s : State) (n : Nat) : (s.setHead n).drive = s.drive := rfl

/-! ### setTail -/

@[simp] theorem State.setTail_params (s : State) (n : Nat) : (s.setTail n).params = s.params := rfl
@[simp] theorem State.setTail_ring (s : State) (n : Nat) : (s.setTail n).ring = { s.ring with tail := n } := rfl
@[simp] theorem State.setTail_line (s : State) (n : Nat) : (s.setTail n).line = s.line := rfl
@[simp] theorem State.setTail_writeError (s : State) (n : Nat) : (s.setTail n).writeError = s.writeError := rfl
@[simp] theorem State.setTail_pump (s : State) (n : Nat) : (s.setTail n).pump = s.pump := rfl
@[simp] theorem State.setTail_ctl (s : State) (n : Nat) : (s.setTail n).ctl = s.ctl := rfl
@[simp] theorem State.setTail_app (s : State) (n : Nat) : (s.setTail n).app = s.app := rfl
@[simp] theorem State.setTail_env (s : State) (n : Nat) : (s.setTail n).env = s.env := rfl
@[simp] theorem State.setTail_ports (s : State) (n : Nat) : (s.setTail n).ports = s.ports := rfl
@[simp] theorem State.setTail_drive (s : State) (n : Nat) : (s.setTail n).drive = s.drive := rfl

/-! ### setPumpPhase -/

@[simp] theorem State.setPumpPhase_params (s : State) (ph : PumpPhase) : (s.setPumpPhase ph).params = s.params := rfl
@[simp] theorem State.setPumpPhase_ring (s : State) (ph : PumpPhase) : (s.setPumpPhase ph).ring = s.ring := rfl
@[simp] theorem State.setPumpPhase_line (s : State) (ph : PumpPhase) : (s.setPumpPhase ph).line = s.line := rfl
@[simp] theorem State.setPumpPhase_writeError (s : State) (ph : PumpPhase) : (s.setPumpPhase ph).writeError = s.writeError := rfl
@[simp] theorem State.setPumpPhase_pump (s : State) (ph : PumpPhase) : (s.setPumpPhase ph).pump = { s.pump with phase := ph } := rfl
@[simp] theorem State.setPumpPhase_ctl (s : State) (ph : PumpPhase) : (s.setPumpPhase ph).ctl = s.ctl := rfl
@[simp] theorem State.setPumpPhase_app (s : State) (ph : PumpPhase) : (s.setPumpPhase ph).app = s.app := rfl
@[simp] theorem State.setPumpPhase_env (s : State) (ph : PumpPhase) : (s.setPumpPhase ph).env = s.env := rfl
@[simp] theorem State.setPumpPhase_ports (s : State) (ph : PumpPhase) : (s.setPumpPhase ph).ports = s.ports := rfl
@[simp] theorem State.setPumpPhase_drive (s : State) (ph : PumpPhase) : (s.setPumpPhase ph).drive = s.drive := rfl

/-! ### setPumpNext -/

@[simp] theorem State.setPumpNext_params (s : State) (n : Nat) : (s.setPumpNext n).params = s.params := rfl
@[simp] theorem State.setPumpNext_ring (s : State) (n : Nat) : (s.setPumpNext n).ring = s.ring := rfl
@[simp] theorem State.setPumpNext_line (s : State) (n : Nat) : (s.setPumpNext n).line = s.line := rfl
@[simp] theorem State.setPumpNext_writeError (s : State) (n : Nat) : (s.setPumpNext n).writeError = s.writeError := rfl
@[simp] theorem State.setPumpNext_pump (s : State) (n : Nat) : (s.setPumpNext n).pump = { s.pump with nextIndex := n } := rfl
@[simp] theorem State.setPumpNext_ctl (s : State) (n : Nat) : (s.setPumpNext n).ctl = s.ctl := rfl
@[simp] theorem State.setPumpNext_app (s : State) (n : Nat) : (s.setPumpNext n).app = s.app := rfl
@[simp] theorem State.setPumpNext_env (s : State) (n : Nat) : (s.setPumpNext n).env = s.env := rfl
@[simp] theorem State.setPumpNext_ports (s : State) (n : Nat) : (s.setPumpNext n).ports = s.ports := rfl
@[simp] theorem State.setPumpNext_drive (s : State) (n : Nat) : (s.setPumpNext n).drive = s.drive := rfl

/-! ### setPumpByte -/

@[simp] theorem State.setPumpByte_params (s : State) (b : Byte) : (s.setPumpByte b).params = s.params := rfl
@[simp] theorem State.setPumpByte_ring (s : State) (b : Byte) : (s.setPumpByte b).ring = s.ring := rfl
@[simp] theorem State.setPumpByte_line (s : State) (b : Byte) : (s.setPumpByte b).line = s.line := rfl
@[simp] theorem State.setPumpByte_writeError (s : State) (b : Byte) : (s.setPumpByte b).writeError = s.writeError := rfl
@[simp] theorem State.setPumpByte_pump (s : State) (b : Byte) : (s.setPumpByte b).pump = { s.pump with byte := b } := rfl
@[simp] theorem State.setPumpByte_ctl (s : State) (b : Byte) : (s.setPumpByte b).ctl = s.ctl := rfl
@[simp] theorem State.setPumpByte_app (s : State) (b : Byte) : (s.setPumpByte b).app = s.app := rfl
@[simp] theorem State.setPumpByte_env (s : State) (b : Byte) : (s.setPumpByte b).env = s.env := rfl
@[simp] theorem State.setPumpByte_ports (s : State) (b : Byte) : (s.setPumpByte b).ports = s.ports := rfl
@[simp] theorem State.setPumpByte_drive (s : State) (b : Byte) : (s.setPumpByte b).drive = s.drive := rfl

/-! ### setCtlPhase -/

@[simp] theorem State.setCtlPhase_params (s : State) (ph : CtlPhase) : (s.setCtlPhase ph).params = s.params := rfl
@[simp] theorem State.setCtlPhase_ring (s : State) (ph : CtlPhase) : (s.setCtlPhase ph).ring = s.ring := rfl
@[simp] theorem State.setCtlPhase_line (s : State) (ph : CtlPhase) : (s.setCtlPhase ph).line = s.line := rfl
@[simp] theorem State.setCtlPhase_writeError (s : State) (ph : CtlPhase) : (s.setCtlPhase ph).writeError = s.writeError := rfl
@[simp] theorem State.setCtlPhase_pump (s : State) (ph : CtlPhase) : (s.setCtlPhase ph).pump = s.pump := rfl
@[simp] theorem State.setCtlPhase_ctl (s : State) (ph : CtlPhase) : (s.setCtlPhase ph).ctl = { s.ctl with phase := ph } := rfl
@[simp] theorem State.setCtlPhase_app (s : State) (ph : CtlPhase) : (s.setCtlPhase ph).app = s.app := rfl
@[simp] theorem State.setCtlPhase_env (s : State) (ph : CtlPhase) : (s.setCtlPhase ph).env = s.env := rfl
@[simp] theorem State.setCtlPhase_ports (s : State) (ph : CtlPhase) : (s.setCtlPhase ph).ports = s.ports := rfl
@[simp] theorem State.setCtlPhase_drive (s : State) (ph : CtlPhase) : (s.setCtlPhase ph).drive = s.drive := rfl

/-! ### setApp -/

@[simp] theorem State.setApp_params (s : State) (ph : AppPhase) : (s.setApp ph).params = s.params := rfl
@[simp] theorem State.setApp_ring (s : State) (ph : AppPhase) : (s.setApp ph).ring = s.ring := rfl
@[simp] theorem State.setApp_line (s : State) (ph : AppPhase) : (s.setApp ph).line = s.line := rfl
@[simp] theorem State.setApp_writeError (s : State) (ph : AppPhase) : (s.setApp ph).writeError = s.writeError := rfl
@[simp] theorem State.setApp_pump (s : State) (ph : AppPhase) : (s.setApp ph).pump = s.pump := rfl
@[simp] theorem State.setApp_ctl (s : State) (ph : AppPhase) : (s.setApp ph).ctl = s.ctl := rfl
@[simp] theorem State.setApp_app (s : State) (ph : AppPhase) : (s.setApp ph).app = ph := rfl
@[simp] theorem State.setApp_env (s : State) (ph : AppPhase) : (s.setApp ph).env = s.env := rfl
@[simp] theorem State.setApp_ports (s : State) (ph : AppPhase) : (s.setApp ph).ports = s.ports := rfl
@[simp] theorem State.setApp_drive (s : State) (ph : AppPhase) : (s.setApp ph).drive = s.drive := rfl

/-! ### respondA -/

@[simp] theorem State.respondA_params (s : State) (r : AppResponse) : (s.respondA r).params = s.params := rfl
@[simp] theorem State.respondA_ring (s : State) (r : AppResponse) : (s.respondA r).ring = s.ring := rfl
@[simp] theorem State.respondA_line (s : State) (r : AppResponse) : (s.respondA r).line = s.line := rfl
@[simp] theorem State.respondA_writeError (s : State) (r : AppResponse) : (s.respondA r).writeError = s.writeError := rfl
@[simp] theorem State.respondA_pump (s : State) (r : AppResponse) : (s.respondA r).pump = s.pump := rfl
@[simp] theorem State.respondA_ctl (s : State) (r : AppResponse) : (s.respondA r).ctl = s.ctl := rfl
@[simp] theorem State.respondA_app (s : State) (r : AppResponse) : (s.respondA r).app = s.app := rfl
@[simp] theorem State.respondA_env (s : State) (r : AppResponse) : (s.respondA r).env = s.env := rfl
@[simp] theorem State.respondA_ports (s : State) (r : AppResponse) : (s.respondA r).ports = { s.ports with respA := s.ports.respA ++ [r] } := rfl
@[simp] theorem State.respondA_drive (s : State) (r : AppResponse) : (s.respondA r).drive = s.drive := rfl

/-! ### respondU -/

@[simp] theorem State.respondU_params (s : State) (b : Bool) : (s.respondU b).params = s.params := rfl
@[simp] theorem State.respondU_ring (s : State) (b : Bool) : (s.respondU b).ring = s.ring := rfl
@[simp] theorem State.respondU_line (s : State) (b : Bool) : (s.respondU b).line = s.line := rfl
@[simp] theorem State.respondU_writeError (s : State) (b : Bool) : (s.respondU b).writeError = s.writeError := rfl
@[simp] theorem State.respondU_pump (s : State) (b : Bool) : (s.respondU b).pump = s.pump := rfl
@[simp] theorem State.respondU_ctl (s : State) (b : Bool) : (s.respondU b).ctl = s.ctl := rfl
@[simp] theorem State.respondU_app (s : State) (b : Bool) : (s.respondU b).app = s.app := rfl
@[simp] theorem State.respondU_env (s : State) (b : Bool) : (s.respondU b).env = s.env := rfl
@[simp] theorem State.respondU_ports (s : State) (b : Bool) : (s.respondU b).ports = { s.ports with respU := s.ports.respU ++ [b] } := rfl
@[simp] theorem State.respondU_drive (s : State) (b : Bool) : (s.respondU b).drive = s.drive := rfl

/-! ### respondR -/

@[simp] theorem State.respondR_params (s : State) (r : RbResponse) : (s.respondR r).params = s.params := rfl
@[simp] theorem State.respondR_ring (s : State) (r : RbResponse) : (s.respondR r).ring = s.ring := rfl
@[simp] theorem State.respondR_line (s : State) (r : RbResponse) : (s.respondR r).line = s.line := rfl
@[simp] theorem State.respondR_writeError (s : State) (r : RbResponse) : (s.respondR r).writeError = s.writeError := rfl
@[simp] theorem State.respondR_pump (s : State) (r : RbResponse) : (s.respondR r).pump = s.pump := rfl
@[simp] theorem State.respondR_ctl (s : State) (r : RbResponse) : (s.respondR r).ctl = s.ctl := rfl
@[simp] theorem State.respondR_app (s : State) (r : RbResponse) : (s.respondR r).app = s.app := rfl
@[simp] theorem State.respondR_env (s : State) (r : RbResponse) : (s.respondR r).env = s.env := rfl
@[simp] theorem State.respondR_ports (s : State) (r : RbResponse) : (s.respondR r).ports = { s.ports with respR := s.ports.respR ++ [r] } := rfl
@[simp] theorem State.respondR_drive (s : State) (r : RbResponse) : (s.respondR r).drive = s.drive := rfl

/-! ### appReturn -/

@[simp] theorem State.appReturn_params (s : State) (r : AppResponse) : (s.appReturn r).params = s.params := rfl
@[simp] theorem State.appReturn_ring (s : State) (r : AppResponse) : (s.appReturn r).ring = s.ring := rfl
@[simp] theorem State.appReturn_line (s : State) (r : AppResponse) : (s.appReturn r).line = s.line := rfl
@[simp] theorem State.appReturn_writeError (s : State) (r : AppResponse) : (s.appReturn r).writeError = s.writeError := rfl
@[simp] theorem State.appReturn_pump (s : State) (r : AppResponse) : (s.appReturn r).pump = s.pump := rfl
@[simp] theorem State.appReturn_ctl (s : State) (r : AppResponse) : (s.appReturn r).ctl = s.ctl := rfl
@[simp] theorem State.appReturn_app (s : State) (r : AppResponse) : (s.appReturn r).app = .idle := rfl
@[simp] theorem State.appReturn_env (s : State) (r : AppResponse) : (s.appReturn r).env = s.env := rfl
@[simp] theorem State.appReturn_ports (s : State) (r : AppResponse) : (s.appReturn r).ports = { s.ports with respA := s.ports.respA ++ [r] } := rfl
@[simp] theorem State.appReturn_drive (s : State) (r : AppResponse) : (s.appReturn r).drive = s.drive := rfl

/-! ### ctlReturn -/

@[simp] theorem State.ctlReturn_params (s : State) (b : Bool) : (s.ctlReturn b).params = s.params := rfl
@[simp] theorem State.ctlReturn_ring (s : State) (b : Bool) : (s.ctlReturn b).ring = s.ring := rfl
@[simp] theorem State.ctlReturn_line (s : State) (b : Bool) : (s.ctlReturn b).line = s.line := rfl
@[simp] theorem State.ctlReturn_writeError (s : State) (b : Bool) : (s.ctlReturn b).writeError = s.writeError := rfl
@[simp] theorem State.ctlReturn_pump (s : State) (b : Bool) : (s.ctlReturn b).pump = s.pump := rfl
@[simp] theorem State.ctlReturn_ctl (s : State) (b : Bool) : (s.ctlReturn b).ctl = { s.ctl with phase := .idle } := rfl
@[simp] theorem State.ctlReturn_app (s : State) (b : Bool) : (s.ctlReturn b).app = s.app := rfl
@[simp] theorem State.ctlReturn_env (s : State) (b : Bool) : (s.ctlReturn b).env = s.env := rfl
@[simp] theorem State.ctlReturn_ports (s : State) (b : Bool) : (s.ctlReturn b).ports = { s.ports with respU := s.ports.respU ++ [b] } := rfl
@[simp] theorem State.ctlReturn_drive (s : State) (b : Bool) : (s.ctlReturn b).drive = s.drive := rfl

/-! ### setPortA -/

@[simp] theorem State.setPortA_params (s : State) (ps : List AppRequest) : (s.setPortA ps).params = s.params := rfl
@[simp] theorem State.setPortA_ring (s : State) (ps : List AppRequest) : (s.setPortA ps).ring = s.ring := rfl
@[simp] theorem State.setPortA_line (s : State) (ps : List AppRequest) : (s.setPortA ps).line = s.line := rfl
@[simp] theorem State.setPortA_writeError (s : State) (ps : List AppRequest) : (s.setPortA ps).writeError = s.writeError := rfl
@[simp] theorem State.setPortA_pump (s : State) (ps : List AppRequest) : (s.setPortA ps).pump = s.pump := rfl
@[simp] theorem State.setPortA_ctl (s : State) (ps : List AppRequest) : (s.setPortA ps).ctl = s.ctl := rfl
@[simp] theorem State.setPortA_app (s : State) (ps : List AppRequest) : (s.setPortA ps).app = s.app := rfl
@[simp] theorem State.setPortA_env (s : State) (ps : List AppRequest) : (s.setPortA ps).env = s.env := rfl
@[simp] theorem State.setPortA_ports (s : State) (ps : List AppRequest) : (s.setPortA ps).ports = { s.ports with portA := ps } := rfl
@[simp] theorem State.setPortA_drive (s : State) (ps : List AppRequest) : (s.setPortA ps).drive = s.drive := rfl

/-! ### setPortU -/

@[simp] theorem State.setPortU_params (s : State) (ps : List UsbEvent) : (s.setPortU ps).params = s.params := rfl
@[simp] theorem State.setPortU_ring (s : State) (ps : List UsbEvent) : (s.setPortU ps).ring = s.ring := rfl
@[simp] theorem State.setPortU_line (s : State) (ps : List UsbEvent) : (s.setPortU ps).line = s.line := rfl
@[simp] theorem State.setPortU_writeError (s : State) (ps : List UsbEvent) : (s.setPortU ps).writeError = s.writeError := rfl
@[simp] theorem State.setPortU_pump (s : State) (ps : List UsbEvent) : (s.setPortU ps).pump = s.pump := rfl
@[simp] theorem State.setPortU_ctl (s : State) (ps : List UsbEvent) : (s.setPortU ps).ctl = s.ctl := rfl
@[simp] theorem State.setPortU_app (s : State) (ps : List UsbEvent) : (s.setPortU ps).app = s.app := rfl
@[simp] theorem State.setPortU_env (s : State) (ps : List UsbEvent) : (s.setPortU ps).env = s.env := rfl
@[simp] theorem State.setPortU_ports (s : State) (ps : List UsbEvent) : (s.setPortU ps).ports = { s.ports with portU := ps } := rfl
@[simp] theorem State.setPortU_drive (s : State) (ps : List UsbEvent) : (s.setPortU ps).drive = s.drive := rfl

/-! ### setPortR -/

@[simp] theorem State.setPortR_params (s : State) (ps : List RbRequest) : (s.setPortR ps).params = s.params := rfl
@[simp] theorem State.setPortR_ring (s : State) (ps : List RbRequest) : (s.setPortR ps).ring = s.ring := rfl
@[simp] theorem State.setPortR_line (s : State) (ps : List RbRequest) : (s.setPortR ps).line = s.line := rfl
@[simp] theorem State.setPortR_writeError (s : State) (ps : List RbRequest) : (s.setPortR ps).writeError = s.writeError := rfl
@[simp] theorem State.setPortR_pump (s : State) (ps : List RbRequest) : (s.setPortR ps).pump = s.pump := rfl
@[simp] theorem State.setPortR_ctl (s : State) (ps : List RbRequest) : (s.setPortR ps).ctl = s.ctl := rfl
@[simp] theorem State.setPortR_app (s : State) (ps : List RbRequest) : (s.setPortR ps).app = s.app := rfl
@[simp] theorem State.setPortR_env (s : State) (ps : List RbRequest) : (s.setPortR ps).env = s.env := rfl
@[simp] theorem State.setPortR_ports (s : State) (ps : List RbRequest) : (s.setPortR ps).ports = { s.ports with portR := ps } := rfl
@[simp] theorem State.setPortR_drive (s : State) (ps : List RbRequest) : (s.setPortR ps).drive = s.drive := rfl

/-! ### resetBlock -/

@[simp] theorem State.resetBlock_params (s : State) : (s.resetBlock).params = s.params := rfl
@[simp] theorem State.resetBlock_ring (s : State) : (s.resetBlock).ring = Ring.reset := rfl
@[simp] theorem State.resetBlock_line (s : State) : (s.resetBlock).line = LineInfo.reset s.params := rfl
@[simp] theorem State.resetBlock_writeError (s : State) : (s.resetBlock).writeError = false := rfl
@[simp] theorem State.resetBlock_pump (s : State) : (s.resetBlock).pump = Pump.reset := rfl
@[simp] theorem State.resetBlock_ctl (s : State) : (s.resetBlock).ctl = Ctl.reset := rfl
@[simp] theorem State.resetBlock_app (s : State) : (s.resetBlock).app = .idle := rfl
@[simp] theorem State.resetBlock_env (s : State) : (s.resetBlock).env = Env.resetWith s.env.rxFuture := rfl
@[simp] theorem State.resetBlock_ports (s : State) : (s.resetBlock).ports = { s.ports with respA := [], respU := [], respR := [] } := rfl
@[simp] theorem State.resetBlock_drive (s : State) : (s.resetBlock).drive = { s.drive with epoch := s.drive.epoch + 1 } := rfl

/-! ### setLine -/

@[simp] theorem State.setLine_params (s : State) (l : LineInfo) : (s.setLine l).params = s.params := rfl
@[simp] theorem State.setLine_ring (s : State) (l : LineInfo) : (s.setLine l).ring = s.ring := rfl
@[simp] theorem State.setLine_line (s : State) (l : LineInfo) : (s.setLine l).line = l := rfl
@[simp] theorem State.setLine_writeError (s : State) (l : LineInfo) : (s.setLine l).writeError = s.writeError := rfl
@[simp] theorem State.setLine_pump (s : State) (l : LineInfo) : (s.setLine l).pump = s.pump := rfl
@[simp] theorem State.setLine_ctl (s : State) (l : LineInfo) : (s.setLine l).ctl = s.ctl := rfl
@[simp] theorem State.setLine_app (s : State) (l : LineInfo) : (s.setLine l).app = s.app := rfl
@[simp] theorem State.setLine_env (s : State) (l : LineInfo) : (s.setLine l).env = s.env := rfl
@[simp] theorem State.setLine_ports (s : State) (l : LineInfo) : (s.setLine l).ports = s.ports := rfl
@[simp] theorem State.setLine_drive (s : State) (l : LineInfo) : (s.setLine l).drive = s.drive := rfl

/-! ### setLineState -/

@[simp] theorem State.setLineState_params (s : State) (v : Byte) : (s.setLineState v).params = s.params := rfl
@[simp] theorem State.setLineState_ring (s : State) (v : Byte) : (s.setLineState v).ring = s.ring := rfl
@[simp] theorem State.setLineState_line (s : State) (v : Byte) : (s.setLineState v).line = { s.line with lineState := v } := rfl
@[simp] theorem State.setLineState_writeError (s : State) (v : Byte) : (s.setLineState v).writeError = s.writeError := rfl
@[simp] theorem State.setLineState_pump (s : State) (v : Byte) : (s.setLineState v).pump = s.pump := rfl
@[simp] theorem State.setLineState_ctl (s : State) (v : Byte) : (s.setLineState v).ctl = s.ctl := rfl
@[simp] theorem State.setLineState_app (s : State) (v : Byte) : (s.setLineState v).app = s.app := rfl
@[simp] theorem State.setLineState_env (s : State) (v : Byte) : (s.setLineState v).env = s.env := rfl
@[simp] theorem State.setLineState_ports (s : State) (v : Byte) : (s.setLineState v).ports = s.ports := rfl
@[simp] theorem State.setLineState_drive (s : State) (v : Byte) : (s.setLineState v).drive = s.drive := rfl

/-! ### markWriteError -/

@[simp] theorem State.markWriteError_params (s : State) : (s.markWriteError).params = s.params := rfl
@[simp] theorem State.markWriteError_ring (s : State) : (s.markWriteError).ring = s.ring := rfl
@[simp] theorem State.markWriteError_line (s : State) : (s.markWriteError).line = s.line := rfl
@[simp] theorem State.markWriteError_writeError (s : State) : (s.markWriteError).writeError = true := rfl
@[simp] theorem State.markWriteError_pump (s : State) : (s.markWriteError).pump = s.pump := rfl
@[simp] theorem State.markWriteError_ctl (s : State) : (s.markWriteError).ctl = s.ctl := rfl
@[simp] theorem State.markWriteError_app (s : State) : (s.markWriteError).app = s.app := rfl
@[simp] theorem State.markWriteError_env (s : State) : (s.markWriteError).env = s.env := rfl
@[simp] theorem State.markWriteError_ports (s : State) : (s.markWriteError).ports = s.ports := rfl
@[simp] theorem State.markWriteError_drive (s : State) : (s.markWriteError).drive = s.drive := rfl

/-! ### clearWriteError -/

@[simp] theorem State.clearWriteError_params (s : State) : (s.clearWriteError).params = s.params := rfl
@[simp] theorem State.clearWriteError_ring (s : State) : (s.clearWriteError).ring = s.ring := rfl
@[simp] theorem State.clearWriteError_line (s : State) : (s.clearWriteError).line = s.line := rfl
@[simp] theorem State.clearWriteError_writeError (s : State) : (s.clearWriteError).writeError = false := rfl
@[simp] theorem State.clearWriteError_pump (s : State) : (s.clearWriteError).pump = s.pump := rfl
@[simp] theorem State.clearWriteError_ctl (s : State) : (s.clearWriteError).ctl = s.ctl := rfl
@[simp] theorem State.clearWriteError_app (s : State) : (s.clearWriteError).app = s.app := rfl
@[simp] theorem State.clearWriteError_env (s : State) : (s.clearWriteError).env = s.env := rfl
@[simp] theorem State.clearWriteError_ports (s : State) : (s.clearWriteError).ports = s.ports := rfl
@[simp] theorem State.clearWriteError_drive (s : State) : (s.clearWriteError).drive = s.drive := rfl

/-! ### askPass -/

@[simp] theorem State.askPass_params (s : State) : (s.askPass).params = s.params := rfl
@[simp] theorem State.askPass_ring (s : State) : (s.askPass).ring = s.ring := rfl
@[simp] theorem State.askPass_line (s : State) : (s.askPass).line = s.line := rfl
@[simp] theorem State.askPass_writeError (s : State) : (s.askPass).writeError = s.writeError := rfl
@[simp] theorem State.askPass_pump (s : State) : (s.askPass).pump = { s.pump with req := true } := rfl
@[simp] theorem State.askPass_ctl (s : State) : (s.askPass).ctl = s.ctl := rfl
@[simp] theorem State.askPass_app (s : State) : (s.askPass).app = s.app := rfl
@[simp] theorem State.askPass_env (s : State) : (s.askPass).env = s.env := rfl
@[simp] theorem State.askPass_ports (s : State) : (s.askPass).ports = s.ports := rfl
@[simp] theorem State.askPass_drive (s : State) : (s.askPass).drive = s.drive := rfl

/-! ### takePass -/

@[simp] theorem State.takePass_params (s : State) : (s.takePass).params = s.params := rfl
@[simp] theorem State.takePass_ring (s : State) : (s.takePass).ring = s.ring := rfl
@[simp] theorem State.takePass_line (s : State) : (s.takePass).line = s.line := rfl
@[simp] theorem State.takePass_writeError (s : State) : (s.takePass).writeError = s.writeError := rfl
@[simp] theorem State.takePass_pump (s : State) : (s.takePass).pump = { s.pump with req := false } := rfl
@[simp] theorem State.takePass_ctl (s : State) : (s.takePass).ctl = s.ctl := rfl
@[simp] theorem State.takePass_app (s : State) : (s.takePass).app = s.app := rfl
@[simp] theorem State.takePass_env (s : State) : (s.takePass).env = s.env := rfl
@[simp] theorem State.takePass_ports (s : State) : (s.takePass).ports = s.ports := rfl
@[simp] theorem State.takePass_drive (s : State) : (s.takePass).drive = s.drive := rfl

/-! ### setEnv -/

@[simp] theorem State.setEnv_params (s : State) (e : Env) : (s.setEnv e).params = s.params := rfl
@[simp] theorem State.setEnv_ring (s : State) (e : Env) : (s.setEnv e).ring = s.ring := rfl
@[simp] theorem State.setEnv_line (s : State) (e : Env) : (s.setEnv e).line = s.line := rfl
@[simp] theorem State.setEnv_writeError (s : State) (e : Env) : (s.setEnv e).writeError = s.writeError := rfl
@[simp] theorem State.setEnv_pump (s : State) (e : Env) : (s.setEnv e).pump = s.pump := rfl
@[simp] theorem State.setEnv_ctl (s : State) (e : Env) : (s.setEnv e).ctl = s.ctl := rfl
@[simp] theorem State.setEnv_app (s : State) (e : Env) : (s.setEnv e).app = s.app := rfl
@[simp] theorem State.setEnv_env (s : State) (e : Env) : (s.setEnv e).env = e := rfl
@[simp] theorem State.setEnv_ports (s : State) (e : Env) : (s.setEnv e).ports = s.ports := rfl
@[simp] theorem State.setEnv_drive (s : State) (e : Env) : (s.setEnv e).drive = s.drive := rfl

/-! ### countDraw -/

@[simp] theorem State.countDraw_params (s : State) : (s.countDraw).params = s.params := rfl
@[simp] theorem State.countDraw_ring (s : State) : (s.countDraw).ring = s.ring := rfl
@[simp] theorem State.countDraw_line (s : State) : (s.countDraw).line = s.line := rfl
@[simp] theorem State.countDraw_writeError (s : State) : (s.countDraw).writeError = s.writeError := rfl
@[simp] theorem State.countDraw_pump (s : State) : (s.countDraw).pump = s.pump := rfl
@[simp] theorem State.countDraw_ctl (s : State) : (s.countDraw).ctl = s.ctl := rfl
@[simp] theorem State.countDraw_app (s : State) : (s.countDraw).app = s.app := rfl
@[simp] theorem State.countDraw_env (s : State) : (s.countDraw).env = s.env := rfl
@[simp] theorem State.countDraw_ports (s : State) : (s.countDraw).ports = s.ports := rfl
@[simp] theorem State.countDraw_drive (s : State) : (s.countDraw).drive = { s.drive with draws := s.drive.draws + 1 } := rfl

end Sys2Proof.Machine
end

