-- ==== Sys2Proof/Laws/Memory.lean ====
section
/-! SUPPORT. The laws of the memory: read after write, the canonical form kept by every write, and held at reset. -/

namespace Sys2Proof.Machine

@[simp] theorem Memory.get?_nil (a : Nat) : Memory.get? [] a = none := rfl

theorem Memory.get?_put_same (m : Memory) (a : Nat) (b : Byte) : (m.put a b).get? a = some b := by
  induction m with
  | nil => simp [Memory.put, Memory.get?]
  | cons c rest ih =>
    obtain ⟨k, v⟩ := c
    simp only [Memory.put]
    split
    · simp [Memory.get?]
    · split
      · simp [Memory.get?]
      · next h1 h2 => simp [Memory.get?, Ne.symm h2, ih]

theorem Memory.get?_put_other (m : Memory) (a a' : Nat) (b : Byte) (h : a' ≠ a) :
    (m.put a b).get? a' = m.get? a' := by
  induction m with
  | nil => simp [Memory.put, Memory.get?, Ne.symm h]
  | cons c rest ih =>
    obtain ⟨k, v⟩ := c
    simp only [Memory.put]
    split
    · simp [Memory.get?, Ne.symm h]
    · split
      · next h1 h2 => subst h2; simp [Memory.get?, Ne.symm h]
      · simp [Memory.get?, ih]

/-- Every entry of a written memory is the one written or was there before. -/
theorem Memory.mem_put {m : Memory} {a : Nat} {b : Byte} {c : Host.Cell} (h : c ∈ m.put a b) : c = (a, b) ∨ c ∈ m := by
  induction m with
  | nil => simpa [Memory.put] using h
  | cons d rest ih =>
    obtain ⟨k, v⟩ := d
    simp only [Memory.put] at h
    split at h
    · simpa using h
    · split at h
      · rcases List.mem_cons.mp h with h | h
        · exact .inl h
        · exact .inr (List.mem_cons_of_mem _ h)
      · rcases List.mem_cons.mp h with h | h
        · exact .inr (h ▸ List.mem_cons_self ..)
        · exact (ih h).imp id (List.mem_cons_of_mem _)

/-- The canonical form as a pairwise order. -/
theorem Memory.wf_iff (m : Memory) : m.wf = true ↔ List.Pairwise (fun c d : Host.Cell => c.1 < d.1) m := by
  induction m with
  | nil => simp [Memory.wf]
  | cons c rest ih =>
    cases rest with
    | nil => simp [Memory.wf]
    | cons d rest =>
      obtain ⟨a, u⟩ := c
      obtain ⟨b, v⟩ := d
      simp only [Memory.wf, Bool.and_eq_true, decide_eq_true_eq]
      rw [ih, List.pairwise_cons (a := (a, u))]
      constructor
      · rintro ⟨hab, hp⟩
        refine ⟨fun e he => ?_, hp⟩
        rcases List.mem_cons.mp he with rfl | he
        · exact hab
        · exact lt_trans hab ((List.pairwise_cons.mp hp).1 e he)
      · rintro ⟨hall, hp⟩
        exact ⟨hall (b, v) (List.mem_cons_self ..), hp⟩

/-- A write keeps the canonical form. -/
theorem Memory.wf_put (m : Memory) (a : Nat) (b : Byte) (h : m.wf = true) : (m.put a b).wf = true := by
  rw [Memory.wf_iff] at h ⊢
  induction m with
  | nil => simp [Memory.put]
  | cons c rest ih =>
    obtain ⟨k, v⟩ := c
    obtain ⟨hk, hrest⟩ := List.pairwise_cons.mp h
    simp only [Memory.put]
    split
    · next hak =>
      refine List.pairwise_cons.mpr ⟨fun e he => ?_, h⟩
      rcases List.mem_cons.mp he with rfl | he
      · exact hak
      · exact lt_trans hak (hk e he)
    · split
      · next _ hak => subst hak; exact List.pairwise_cons.mpr ⟨hk, hrest⟩
      · next h1 h2 =>
        refine List.pairwise_cons.mpr ⟨fun e he => ?_, ih hrest⟩
        rcases Memory.mem_put he with rfl | he
        · show k < a
          omega
        · exact hk e he

/-- The memory of the reset state is in canonical form. -/
theorem State.resetWith_storage_wf (p : Params) : (State.resetWith p).ring.storage.wf = true := rfl

/-- The memory after a reset is in canonical form. -/
theorem State.resetBlock_storage_wf (s : State) : s.resetBlock.ring.storage.wf = true := rfl

end Sys2Proof.Machine
end

