-- ==== Sys2Proof/Laws/Ops.lean ====
section
/-! SUPPORT. What each shared operation can do: one lemma each, cited where the operation is used. -/

namespace Sys2Proof.Machine

variable {s t : State} {i : Instr} {k : State → Outcome}

/-! ### Composition -/

@[simp] theorem andThen_next (t : State) (f : State → Outcome) : andThen (.next t) f = f t := rfl
@[simp] theorem andThen_fault (e : Fault) (f : State → Outcome) : andThen (.fault e) f = .fault e := rfl
@[simp] theorem andThen_refused (e : Refusal) (f : State → Outcome) : andThen (.refused e) f = .refused e := rfl

@[simp] theorem withResult_ok {α : Type} (a : α) (t : State) (f : α → State → Outcome) : withResult (.ok (a, t)) f = f a t := rfl
@[simp] theorem withResult_error {α : Type} (e : Fault) (f : α → State → Outcome) : withResult (.error e) f = .fault e := rfl

/-- A composition that answers a next state went through one. -/
theorem andThen_eq_next {o : Outcome} {f : State → Outcome} (h : andThen o f = .next t) : ∃ u, o = .next u ∧ f u = .next t := by
  cases o with
  | next u => exact ⟨u, rfl, h⟩
  | fault e => exact absurd h (by simp)
  | refused e => exact absurd h (by simp)

/-- A use of a call's result that answers a next state had a result. -/
theorem withResult_eq_next {α : Type} {r : Except Fault (α × State)} {f : α → State → Outcome}
    (h : withResult r f = .next t) : ∃ a u, r = .ok (a, u) ∧ f a u = .next t := by
  match r, h with
  | .ok (a, u), h => exact ⟨a, u, rfl, h⟩
  | .error e, h => exact absurd h (by simp)

/-! ### Cells -/

theorem memRead_of_lt {a : Nat} (h : a < s.params.C) : s.memRead a = .ok (s.cell a) := by simp [State.memRead, h]

theorem memRead_eq_ok {a : Nat} {v : Byte} (h : s.memRead a = .ok v) : a < s.params.C ∧ v = s.cell a := by
  unfold State.memRead at h
  split at h
  · next hlt => exact ⟨hlt, by simpa using h.symm⟩
  · simp at h

theorem memWrite_of_lt {a : Nat} {v : Byte} (h : a < s.params.C) :
    s.memWrite a v = .ok { s with ring := { s.ring with storage := s.ring.storage.put a v } } := by simp [State.memWrite, h]

theorem memWrite_eq_ok {a : Nat} {v : Byte} (h : s.memWrite a v = .ok t) :
    a < s.params.C ∧ t = { s with ring := { s.ring with storage := s.ring.storage.put a v } } := by
  unfold State.memWrite at h
  split at h
  · next hlt => exact ⟨hlt, by simpa using h.symm⟩
  · simp at h

/-- A cell reads as its listed byte. -/
theorem cell_of_get? {a : Nat} {v : Byte} (h : s.ring.storage.get? a = some v) : s.cell a = v := by simp [State.cell, h]

/-! ### Indices (R9) -/

theorem inc_lt {C i : Nat} (h : 0 < C) : inc C i < C := Nat.mod_lt _ h

theorem inc_of_lt {C i : Nat} (h : i + 1 < C) : inc C i = i + 1 := Nat.mod_eq_of_lt h

theorem inc_last {C : Nat} (h : 0 < C) : inc C (C - 1) = 0 := by
  unfold inc
  rw [Nat.sub_add_cancel h, Nat.mod_self]

theorem inc_injective {C i j : Nat} (hi : i < C) (hj : j < C) (h : inc C i = inc C j) : i = j := by
  unfold inc at h
  rcases Nat.lt_or_ge (i + 1) C with h1 | h1 <;> rcases Nat.lt_or_ge (j + 1) C with h2 | h2
  · rw [Nat.mod_eq_of_lt h1, Nat.mod_eq_of_lt h2] at h; omega
  · have : j + 1 = C := by omega
    rw [Nat.mod_eq_of_lt h1, this, Nat.mod_self] at h; omega
  · have : i + 1 = C := by omega
    rw [Nat.mod_eq_of_lt h2, this, Nat.mod_self] at h; omega
  · omega

/-! ### Taking an operation, or leaving it to wait -/

theorem takeApp_ready (h : s.appReady = true) : takeApp i s k = k s := by simp [takeApp, h]

theorem takeApp_waits (h : s.appReady = false) : takeApp i s k = .next (s.setPortA (encodeApp i :: s.ports.portA)) := by
  simp [takeApp, h]

theorem takeApp_eq_next (h : takeApp i s k = .next t) :
    (s.appReady = true ∧ k s = .next t) ∨ (s.appReady = false ∧ t = s.setPortA (encodeApp i :: s.ports.portA)) := by
  cases hr : s.appReady with
  | true => exact .inl ⟨rfl, (takeApp_ready hr).symm.trans h⟩
  | false => exact .inr ⟨rfl, by rw [takeApp_waits hr] at h; simpa using h.symm⟩

theorem takeCtl_ready {w : SetupPacket} (h : s.ctlReady = true) : takeCtl w s k = k s := by simp [takeCtl, h]

theorem takeCtl_eq_next {w : SetupPacket} (h : takeCtl w s k = .next t) :
    (s.ctlReady = true ∧ k s = .next t) ∨ (s.ctlReady = false ∧ t = s.setPortU (⟨0b10#2, w⟩ :: s.ports.portU)) := by
  cases hr : s.ctlReady with
  | true => exact .inl ⟨rfl, (takeCtl_ready hr).symm.trans h⟩
  | false => exact .inr ⟨rfl, by simp only [takeCtl, hr] at h; simpa using h.symm⟩

theorem takeRb_eq_next {ready : Bool} {r : RbRequest} (h : takeRb ready r s k = .next t) :
    (ready = true ∧ k s = .next t) ∨ (ready = false ∧ t = s.setPortR (r :: s.ports.portR)) := by
  cases ready with
  | true => exact .inl ⟨rfl, h⟩
  | false => exact .inr ⟨rfl, by simpa [takeRb] using h.symm⟩

/-- APP is ready exactly when it is idle and CTRL does not wait. -/
theorem appReady_iff : s.appReady = true ↔ s.app = .idle ∧ s.ctl.phase ≠ .waitFifo := by
  simp [State.appReady, State.stall]

theorem pumpReady_iff : s.pumpReady = true ↔ s.pump.phase = .idle ∧ s.ctl.phase ≠ .waitFifo := by
  simp [State.pumpReady, State.stall]

theorem ctlReady_iff : s.ctlReady = true ↔ s.ctl.phase = .dispatch .t2 := by simp [State.ctlReady]

theorem stall_iff : s.stall = true ↔ s.ctl.phase = .waitFifo := by simp [State.stall]

/-! ### Ring Buffer primitives -/

theorem rbWriteByte_full {b : Byte} (h : s.full = true) : rbWriteByte b s = .ok (false, s) := by simp [rbWriteByte, h]

theorem rbWriteByte_eq_ok {b : Byte} {ok : Bool} (h : rbWriteByte b s = .ok (ok, t)) :
    (s.full = true ∧ ok = false ∧ t = s) ∨
    (s.full = false ∧ ok = true ∧ s.ring.head < s.params.C ∧
      t = { s with ring := { s.ring with
              storage := s.ring.storage.put s.ring.head b, head := inc s.params.C s.ring.head } }) := by
  unfold rbWriteByte at h
  split at h
  · next hf => cases h; exact .inl ⟨hf, rfl, rfl⟩
  · next hf =>
    split at h
    · next u hu =>
      obtain ⟨hlt, rfl⟩ := memWrite_eq_ok hu
      cases h
      exact .inr ⟨by simpa using hf, rfl, hlt, rfl⟩
    · cases h

theorem rbReadByte_eq_ok {r : Option Byte} (h : rbReadByte s = .ok (r, t)) :
    (s.empty = true ∧ r = none ∧ t = s) ∨
    (s.empty = false ∧ s.ring.tail < s.params.C ∧ r = some (s.cell s.ring.tail) ∧
      t = s.setTail (inc s.params.C s.ring.tail)) := by
  unfold rbReadByte at h
  split at h
  · next he => cases h; exact .inl ⟨he, rfl, rfl⟩
  · next he =>
    split at h
    · next v hv =>
      obtain ⟨hlt, rfl⟩ := memRead_eq_ok hv
      cases h
      exact .inr ⟨by simpa using he, hlt, rfl, rfl⟩
    · cases h

theorem rbPeekByte_eq_ok {r : Option Byte} (h : rbPeekByte s = .ok (r, t)) :
    t = s ∧ ((s.empty = true ∧ r = none) ∨
      (s.empty = false ∧ s.ring.tail < s.params.C ∧ r = some (s.cell s.ring.tail))) := by
  unfold rbPeekByte at h
  split at h
  · next he => cases h; exact ⟨rfl, .inl ⟨he, rfl⟩⟩
  · next he =>
    split at h
    · next v hv =>
      obtain ⟨hlt, rfl⟩ := memRead_eq_ok hv
      cases h
      exact ⟨rfl, .inr ⟨by simpa using he, hlt, rfl⟩⟩
    · cases h

/-! ### Collaborator calls and draws -/

theorem boundAnswer_accepted_le (n : Nat) (a : SendAnswer) : sendAccepted (boundAnswer n a) ≤ n := by
  cases a with
  | fail => exact Nat.zero_le n
  | count r => exact Nat.lt_succ_iff.mp (Nat.mod_lt r.toNat (Nat.succ_pos n))

theorem drawSend_eq_ok {n : Nat} {r : SendAnswer} (h : drawSend n s = .ok (r, t)) :
    sendAccepted r ≤ n ∧
    ((s.drive.sendAnswers = [] ∧ r = boundAnswer n (Config.freeSend s.drive.draws) ∧ t = s.countDraw) ∨
      ∃ rest, s.drive.sendAnswers = r :: rest ∧ t = { s with drive := { s.drive with sendAnswers := rest } }) := by
  unfold drawSend at h
  split at h
  · next hs => cases h; exact ⟨boundAnswer_accepted_le _ _, .inl ⟨hs, rfl, rfl⟩⟩
  · next a rest hs =>
    split at h
    · next hle => cases h; exact ⟨hle, .inr ⟨rest, hs, rfl⟩⟩
    · cases h

theorem sendBytes_eq_ok {payload : Bytes} {r : SendAnswer} (h : sendBytes payload s = .ok (r, t)) :
    ∃ u, drawSend payload.length s = .ok (r, u) ∧
      t = u.setEnv { u.env with txlog := u.env.txlog ++ payload.take (sendAccepted r) } := by
  unfold sendBytes at h
  split at h
  · next r' u hu => cases h; exact ⟨u, hu, rfl⟩
  · cases h

theorem receiveByte_rx_eq_ok {b : Byte} (h : receiveByte .rx s = .ok (b, t)) :
    ∃ rest, s.env.rxq = b :: rest ∧ t = s.setEnv { s.env with rxq := rest } := by
  cases hq : s.env.rxq with
  | nil => simp [receiveByte, State.held, hq] at h
  | cons c rest =>
    simp only [receiveByte, State.held, hq] at h
    cases h
    exact ⟨rest, rfl, rfl⟩

theorem receiveByte_ep0_cons {b : Byte} {rest : Bytes} (h : s.env.ep0q = b :: rest) :
    receiveByte .ep0 s = .ok (b, s.setEnv { s.env with ep0q := rest }) := by simp [receiveByte, State.held, h]

theorem receiveByte_rx_cons {b : Byte} {rest : Bytes} (h : s.env.rxq = b :: rest) :
    receiveByte .rx s = .ok (b, s.setEnv { s.env with rxq := rest }) := by simp [receiveByte, State.held, h]

/-- The seven pulls of S3 take the first seven bytes, in order. -/
theorem pullLc_of_seven {d0 d1 d2 d3 d4 d5 d6 : Byte} {rest : Bytes}
    (h : s.env.ep0q = d0 :: d1 :: d2 :: d3 :: d4 :: d5 :: d6 :: rest) :
    pullLc s = .ok (⟨d0, d1, d2, d3, d4, d5, d6⟩, s.setEnv { s.env with ep0q := rest }) := by
  simp [pullLc, receiveByte, State.held, State.setEnv, h, bind, Except.bind, pure, Except.pure]

/-! ### Micro-steps that call a collaborator or reach a cell -/

/-- U3 that answers a next state pulled the first byte held. -/
theorem pumpU3_eq_next (h : pumpU3 s = .next t) :
    ∃ b rest, s.env.rxq = b :: rest ∧
      t = ((s.setEnv { s.env with rxq := rest }).setPumpByte b).setPumpPhase (.run .u4) := by
  obtain ⟨b, u, hu, ht⟩ := withResult_eq_next h
  obtain ⟨rest, hq, rfl⟩ := receiveByte_rx_eq_ok hu
  exact ⟨b, rest, hq, by simpa using ht.symm⟩

/-- U4 that answers a next state stored the byte in the cell that `head` names, and touched no pointer. -/
theorem pumpU4_eq_next (h : pumpU4 s = .next t) :
    s.ring.head < s.params.C ∧
      t = State.setPumpPhase { s with ring := { s.ring with storage := s.ring.storage.put s.ring.head s.pump.byte } } (.run .u5) := by
  unfold pumpU4 at h
  split at h
  · next u hu =>
    obtain ⟨hlt, rfl⟩ := memWrite_eq_ok hu
    exact ⟨hlt, by simpa using h.symm⟩
  · simp at h

/-- S3 on a data stage of seven bytes or more. -/
theorem ctlS3_of_seven {d0 d1 d2 d3 d4 d5 d6 : Byte} {rest : Bytes}
    (h : s.env.ep0q = d0 :: d1 :: d2 :: d3 :: d4 :: d5 :: d6 :: rest) :
    ctlS3 s = .next { s with
      ctl := { s.ctl with pulled := ⟨d0, d1, d2, d3, d4, d5, d6⟩, phase := .dispatch .s4 }
      env := { s.env with ep0q := rest } } := by
  simp [ctlS3, pullLc_of_seven h, State.setEnv]

/-- SET_LINE_CODING from S3 to its end, on a data stage of seven bytes or more. -/
theorem slcFinish_of_seven {d0 d1 d2 d3 d4 d5 d6 : Byte} {rest : Bytes}
    (h : s.env.ep0q = d0 :: d1 :: d2 :: d3 :: d4 :: d5 :: d6 :: rest) :
    slcFinish s = .next { s with
      line := s.line.decodeLC ⟨d0, d1, d2, d3, d4, d5, d6⟩
      ctl := { s.ctl with pulled := ⟨d0, d1, d2, d3, d4, d5, d6⟩, phase := .idle }
      env := { s.env with ep0q := rest }
      ports := { s.ports with respU := s.ports.respU ++ [true] } } := by
  simp [slcFinish, ctlS3_of_seven h, ctlS4, State.ctlReturn, State.setCtlPhase, State.respondU, State.setLine]

/-- A waiting SET_LINE_CODING goes on waiting while the data stage is short. -/
theorem slcResume_of_short (h : s.env.ep0q.length < s.params.slcThreshold) : slcResume s = .next s := by
  simp [slcResume, State.fifoByteCount, State.held, Nat.not_le.mpr h]

/-! ### The schedule -/

theorem nextPick_listed {p : Pick} {rest : List Pick} (h : s.drive.schedule = p :: rest) :
    nextPick s = (p, { s with drive := { s.drive with schedule := rest } }) := by simp [nextPick, h]

/-- Taking a pick changes the model's own inputs and nothing else. -/
theorem nextPick_frame (s : State) : ∃ d, (nextPick s).2 = { s with drive := d } ∧ d.epoch = s.drive.epoch := by
  unfold nextPick
  split
  · exact ⟨_, rfl, rfl⟩
  · exact ⟨_, rfl, rfl⟩

theorem step_of_ok (h : s.params.ok = true) : step s = runPick (nextPick s).1 (nextPick s).2 := by simp [step, stepOnce, h]

/-- A step that answers a next state took a pick. -/
theorem step_eq_next (h : step s = .next t) : s.params.ok = true ∧ runPick (nextPick s).1 (nextPick s).2 = .next t := by
  unfold step stepOnce at h
  split at h
  · next hok => exact ⟨hok, h⟩
  · simp at h

/-- The event taken from port U is the first that can be; those before it stay, in order. -/
theorem firstTakeable_eq_some {ok : UsbEvent → Bool} {e : UsbEvent} {l rest : List UsbEvent}
    (h : firstTakeable ok l = some (e, rest)) :
    ∃ pre post, l = pre ++ e :: post ∧ rest = pre ++ post ∧ (∀ x ∈ pre, ok x = false) ∧ ok e = true := by
  induction l generalizing rest with
  | nil => simp [firstTakeable] at h
  | cons a l ih =>
    unfold firstTakeable at h
    split at h
    · next ha => cases h; exact ⟨[], l, rfl, rfl, by simp, ha⟩
    · next ha =>
      split at h
      · next f others hf =>
        cases h
        obtain ⟨pre, post, rfl, rfl, hpre, he⟩ := ih hf
        exact ⟨a :: pre, post, rfl, rfl, by simpa using ⟨by simpa using ha, hpre⟩, he⟩
      · simp at h

theorem firstTakeable_append {ok : UsbEvent → Bool} {e : UsbEvent} {pre post : List UsbEvent}
    (hpre : ∀ x ∈ pre, ok x = false) (he : ok e = true) : firstTakeable ok (pre ++ e :: post) = some (e, pre ++ post) := by
  induction pre with
  | nil => simp [firstTakeable, he]
  | cons a pre ih => simp [firstTakeable, hpre a (by simp), ih fun x hx => hpre x (by simp [hx])]

theorem firstTakeable_eq_none {ok : UsbEvent → Bool} {l : List UsbEvent} (h : ∀ x ∈ l, ok x = false) :
    firstTakeable ok l = none := by
  induction l with
  | nil => rfl
  | cons a l ih => simp [firstTakeable, h a (by simp), ih fun x hx => h x (by simp [hx])]

/-- An event that arrives on port U is a packet's arrival or joins those that stand there. -/
theorem presentUsb_cases (e : UsbEvent) (s : State) :
    (e.uEv = 0b01#2 ∧ presentUsb e s = arriveNext s) ∨
    (e.uEv ≠ 0b01#2 ∧ presentUsb e s = s.setPortU (s.ports.portU ++ [e])) := by
  by_cases h : e.uEv = 0b01#2 <;> simp [presentUsb, h]

/-- The step that a trace takes next is enabled. -/
theorem nextEnabled_enabled {p : Pick} (h : nextEnabled s = some p) : s.enabled p = true := by
  unfold nextEnabled at h
  split_ifs at h <;> cases h <;> simpa [State.enabled]

/-- No step is taken next exactly when none is enabled. -/
theorem nextEnabled_eq_none : nextEnabled s = none ↔ ∀ p, s.enabled p = false := by
  constructor
  · intro h p
    unfold nextEnabled at h
    split_ifs at h
    cases p <;> simp_all [State.enabled]
  · intro h
    cases hn : nextEnabled s with
    | none => rfl
    | some p => exact absurd (nextEnabled_enabled hn) (by simp [h p])

/-- The step that a trace takes next is an agent's, never ENV's (R245). -/
theorem nextEnabled_is_an_agents {p : Pick} (h : nextEnabled s = some p) :
    p ∈ [Pick.ctrlMicro, .usbOp, .appMicro, .rbOp, .pumpMicro] := by
  unfold nextEnabled at h
  split_ifs at h <;> cases h <;> simp

theorem takeRequest_eq_next {f : Instr → State → Outcome} (h : takeRequest s f = .next t) :
    (s.ports.portA = [] ∧ t = s) ∨
    ∃ r rest i, s.ports.portA = r :: rest ∧ decodeApp s.params r = .ok i ∧ f i (s.setPortA rest) = .next t := by
  unfold takeRequest at h
  split at h
  · next hp => exact .inl ⟨hp, by simpa using h.symm⟩
  · next r rest hp =>
    split at h
    · next i hi => exact .inr ⟨r, rest, i, hp, hi, h⟩
    · simp at h

end Sys2Proof.Machine
end

