-- ==== Sys2Proof/Laws/PerInstr.lean ====
section
/-! SUPPORT. Facts made instruction by instruction. EncodeFormat: the word of an operation stands in the format that R96 gives
the operation. -/

namespace Sys2Proof.Laws.EncodeFormat

/-- The encoded word has the operation's format (R80, R96). -/
def Statement (i : Instr) : Prop := ∀ p : Params, (encode p i).format = i.format

theorem rbAvail : Statement .rbAvail := fun _ => rfl
theorem rbWrite (b : Byte) : Statement (.rbWrite b) := fun _ => rfl
theorem rbRead : Statement .rbRead := fun _ => rfl
theorem rbPeek : Statement .rbPeek := fun _ => rfl
theorem rxReady : Statement .rxReady := fun _ => rfl
theorem pump : Statement .pump := fun _ => rfl
theorem setup (packet : SetupPacket) : Statement (.setup packet) := fun _ => rfl
theorem getLineCoding (v x n : BitVec 16) : Statement (.getLineCoding v x n) := fun _ => rfl
theorem setLineCoding (v x n : BitVec 16) : Statement (.setLineCoding v x n) := fun _ => rfl
theorem setControlLineState (v x n : BitVec 16) : Statement (.setControlLineState v x n) := fun _ => rfl
theorem ctrlUnhandled (packet : SetupPacket) : Statement (.ctrlUnhandled packet) := fun _ => rfl
theorem openPort : Statement .openPort := fun _ => rfl
theorem openCfg (baud : BitVec 32) (cfg : BitVec 16) : Statement (.openCfg baud cfg) := fun _ => rfl
theorem closePort : Statement .closePort := fun _ => rfl
theorem avail : Statement .avail := fun _ => rfl
theorem peek : Statement .peek := fun _ => rfl
theorem read : Statement .read := fun _ => rfl
theorem write (payload : Bytes) : Statement (.write payload) := fun _ => rfl
theorem flush : Statement .flush := fun _ => rfl
theorem isOpen : Statement .isOpen := fun _ => rfl
theorem getWerr : Statement .getWerr := fun _ => rfl
theorem clrWerr : Statement .clrWerr := fun _ => rfl
theorem appReserved (op : BitVec 4) : Statement (.appReserved op) := fun _ => rfl

end Sys2Proof.Laws.EncodeFormat
end

