-- ==== Sys2Proof/Tests/Slice0.lean ====
section
/-! SUPPORT. The model's own tests. Expected values come from the tables of R81 to R94 and from the vectors and programs of
spec/95_test_vectors.md, named in each comment; none is the model's own answer. Then, for each statement with hypotheses, states
and operands that meet them (`witness_…`). -/

namespace Sys2Proof.Tests

open Sys2Proof Sys2Proof.Machine

/-! ### States to test on -/

/-- The defaults of R6 with `C` cells, `RESET_DELAY_MS = 250` and `LENW = 8`. -/
def cfg (C : Nat) : Params := { Params.withOpen 250 8 with C := C }

/-- The block after reset. -/
def start (C : Nat) : State := State.resetWith (cfg C)

/-- A Ring Buffer with the given indices and cells. -/
def buf (C head tail : Nat) (cells : Memory) : State := { start C with ring := ⟨cells, head, tail⟩ }

/-- `C = 4`, the bytes 0xA, 0xB, 0xC unread: full. -/
def full4 : State := buf 4 3 0 [(0, 0xA#8), (1, 0xB#8), (2, 0xC#8)]

/-- `C = 4`, one unread byte, behind which the cells wrap: head 0, tail 3. -/
def wrap4 : State := buf 4 0 3 [(0, 0xA#8), (1, 0xB#8), (2, 0xC#8), (3, 0xDD#8)]

/-- A packet held by the receive endpoint, a pass asked for (R67). -/
def held (C : Nat) (bytes : Bytes) : State := arrive bytes (start C)

/-- The pump at a label. -/
def pumpAt (label : PumpLabel) (s : State) : State := s.setPumpPhase (.run label)

/-- CTRL at a phase with a packet in hand. -/
def ctlAt (phase : CtlPhase) (packet : SetupPacket) (s : State) : State := { s with ctl := { s.ctl with phase := phase, setup := packet } }

/-- Bytes in the EP0 FIFO. -/
def ep0 (bytes : Bytes) (s : State) : State := s.setEnv { s.env with ep0q := bytes }

/-- The time. -/
def clock (ms : Nat) (s : State) : State := s.setEnv { s.env with nowMs := ms }

/-- The baud rate. -/
def baud (rate : BitVec 32) (s : State) : State := { s with line := { s.line with dwDTERate := rate } }

/-- The picks to come. -/
def picks (ps : List Pick) (s : State) : State := { s with drive := { s.drive with schedule := ps } }

/-- The state after, if there is one. -/
def after (o : Outcome) : Option State :=
  match o with
  | .next t => some t
  | .fault _ => none
  | .refused _ => none

/-- Something of the state after. -/
def see {α : Type} (o : Outcome) (f : State → α) : Option α := (after o).map f

/-- The SET_LINE_CODING packet of V-EN-1. -/
def slcPacket : SetupPacket := 0x0007000000002021#64

/-- The GET_LINE_CODING packet of V-EN-1. -/
def glcPacket : SetupPacket := 0x00070000000021A1#64

/-- The SET_CONTROL_LINE_STATE packet of V-EN-1. -/
def sclsPacket : SetupPacket := 0x0000000000012221#64

/-- 1200-8-N-1 on the wire (S9). -/
def data1200 : Bytes := [0xB0#8, 0x04#8, 0#8, 0#8, 0#8, 0#8, 8#8]

/-! ### What WellFormed refuses -/

/-- LENW = 1: a length of 1 fits, 2 does not, 0 always does (R90). -/
theorem test_write_too_long_is_ill_formed : let p := Params.withOpen 0 1
    Instr.wf p (.write [1#8, 2#8]) = false ∧ Instr.wf p (.write [1#8]) = true ∧ Instr.wf p (.write []) = true ∧
    decode p (.app ⟨0x6#4, 0#32, 0#16, 2, [1#8, 2#8]⟩) = .error .malformedWrite := by decide

/-- A packet that selects a handled request is no CTRL_UNHANDLED (R88). -/
theorem test_unhandled_with_a_handled_packet_is_ill_formed :
    Instr.wf (cfg 4) (.ctrlUnhandled sclsPacket) = false ∧ Instr.wf (cfg 4) (.ctrlUnhandled 0x0012000001000680#64) = true := by
  decide

/-- The reserved codes are 0xB to 0xF (R91). -/
theorem test_reserved_code_below_b_is_ill_formed :
    Instr.wf (cfg 4) (.appReserved 0xA#4) = false ∧ Instr.wf (cfg 4) (.appReserved 0xB#4) = true := by decide

/-- With codes that coincide a later row of R84 is hidden by an earlier one. -/
theorem test_hidden_rows_are_ill_formed :
    Instr.wf { cfg 4 with rtH2D := 0xA1#8, brSLC := 0x21#8 } (.setLineCoding 0#16 0#16 0#16) = false ∧
    Instr.wf { cfg 4 with brSCLS := 0x20#8 } (.setControlLineState 0#16 0#16 0#16) = false := by decide

/-- A WRITE whose payload is not `a_len` bytes (R212). -/
theorem test_malformed_request_is_ill_formed :
    AppRequest.wf (cfg 4) ⟨0x6#4, 0#32, 0#16, 3, [1#8]⟩ = false ∧
    decode (cfg 4) (.app ⟨0x6#4, 0#32, 0#16, 3, [1#8]⟩) = .error .malformedWrite := by decide

/-- The constraints of R7, one broken at a time. -/
theorem test_bad_configurations : (cfg 2).ok = true ∧ (cfg 1).ok = false ∧ { cfg 2 with slcThreshold := 6 }.ok = false ∧
    { cfg 2 with rtD2H := 0x21#8 }.ok = false ∧ { cfg 2 with lenW := 0 }.ok = false := by decide

/-! ### Decoding: a word written out for every operation -/

/-- R94: `rb_op` 00, 01, 10, 11. -/
theorem test_decode_rb :
    decode (cfg 4) (.rb ⟨0b00#2, 0x77#8⟩) = .ok .rbAvail ∧ decode (cfg 4) (.rb ⟨0b01#2, 0x77#8⟩) = .ok (.rbWrite 0x77#8) ∧
    decode (cfg 4) (.rb ⟨0b10#2, 0x77#8⟩) = .ok .rbRead ∧ decode (cfg 4) (.rb ⟨0b11#2, 0x77#8⟩) = .ok .rbPeek := by decide

/-- R92: `u_ev` 01, 10; 00 is no event, 11 reserved. The trigger of PUMP is `pump_req` (R80). -/
theorem test_decode_usbev_trig :
    decode (cfg 4) (.usb ⟨0b01#2, slcPacket⟩) = .ok .rxReady ∧ decode (cfg 4) (.usb ⟨0b10#2, slcPacket⟩) = .ok (.setup slcPacket) ∧
    decode (cfg 4) (.usb ⟨0b00#2, slcPacket⟩) = .error .noEvent ∧
    decode (cfg 4) (.usb ⟨0b11#2, slcPacket⟩) = .error .reservedEvent ∧
    decode (cfg 4) (.trig true) = .ok .pump ∧ decode (cfg 4) (.trig false) = .error .noPassAsked := by decide

/-- V-EN-1, V-EN-2, from the eight bytes of the wire (R81). -/
theorem test_decode_setup :
    decode (cfg 4) (.setup (packSetup 0xA1#8 0x21#8 0x11#8 0x22#8 0x33#8 0x44#8 7#8 0#8)) =
      .ok (.getLineCoding 0x2211#16 0x4433#16 7#16) ∧
    packSetup 0x21#8 0x20#8 0#8 0#8 0#8 0#8 7#8 0#8 = slcPacket ∧ decode (cfg 4) (.setup slcPacket) = .ok (.setLineCoding 0#16 0#16 7#16) ∧
    packSetup 0x21#8 0x22#8 1#8 0#8 0#8 0#8 0#8 0#8 = sclsPacket ∧
    decode (cfg 4) (.setup sclsPacket) = .ok (.setControlLineState 1#16 0#16 0#16) ∧ lineStateOperand sclsPacket = 1#8 ∧
    packSetup 0x80#8 0x06#8 0#8 1#8 0#8 0#8 0x12#8 0#8 = 0x0012000001000680#64 ∧
    decode (cfg 4) (.setup 0x0012000001000680#64) = .ok (.ctrlUnhandled 0x0012000001000680#64) := by decide

/-- R91: `a_op` 0x0 to 0x5, the operands of 0x1 kept. -/
theorem test_decode_app_low :
    decode (cfg 4) (.app ⟨0b0000#4, 9#32, 9#16, 0, []⟩) = .ok .openPort ∧
    decode (cfg 4) (.app ⟨0b0001#4, 1200#32, 6#16, 0, []⟩) = .ok (.openCfg 1200#32 6#16) ∧
    decode (cfg 4) (.app ⟨0b0010#4, 0#32, 0#16, 0, []⟩) = .ok .closePort ∧
    decode (cfg 4) (.app ⟨0b0011#4, 0#32, 0#16, 0, []⟩) = .ok .avail ∧
    decode (cfg 4) (.app ⟨0b0100#4, 0#32, 0#16, 0, []⟩) = .ok .peek ∧
    decode (cfg 4) (.app ⟨0b0101#4, 0#32, 0#16, 0, []⟩) = .ok .read := by decide

/-- R91: `a_op` 0x6 to 0xF. -/
theorem test_decode_app_high :
    decode (cfg 4) (.app ⟨0b0110#4, 0#32, 0#16, 2, [0x48#8, 0x69#8]⟩) = .ok (.write [0x48#8, 0x69#8]) ∧
    decode (cfg 4) (.app ⟨0b0111#4, 0#32, 0#16, 0, []⟩) = .ok .flush ∧
    decode (cfg 4) (.app ⟨0b1000#4, 0#32, 0#16, 0, []⟩) = .ok .isOpen ∧
    decode (cfg 4) (.app ⟨0b1001#4, 0#32, 0#16, 0, []⟩) = .ok .getWerr ∧
    decode (cfg 4) (.app ⟨0b1010#4, 0#32, 0#16, 0, []⟩) = .ok .clrWerr ∧
    decode (cfg 4) (.app ⟨0b1011#4, 0#32, 0#16, 0, []⟩) = .ok (.appReserved 0b1011#4) ∧
    decode (cfg 4) (.app ⟨0b1111#4, 0#32, 0#16, 0, []⟩) = .ok (.appReserved 0b1111#4) := by decide

/-- Table words (spec/opcode_table.json), and that the step runs one of each width first after reset. -/
theorem test_table_words :
    decodeTableWord 64 0x00070000000021A1 = some (.getLineCoding 0#16 0#16 7#16) ∧ decodeTableWord 4 0x5 = some .read ∧
    decodeTableWord 2 0x2 = some .rbRead ∧ decodeTableWord 1 1 = some .pump ∧ decodeTableWord 4 16 = none := by decide

theorem test_withFetchWord :
    see (step (State.reset.withFetchWord 64 0x00070000000021A1)) (·.env.ctlIn) =
      some [[0#8, 0xC2#8, 1#8, 0#8, 0#8, 0#8, 8#8]] ∧
    see (step (State.reset.withFetchWord 4 0x5)) (·.ports.respA) = some [.optByte none] ∧
    see (step (State.reset.withFetchWord 2 0x0)) (·.ports.respR) = some [.count 0] ∧
    see (step (State.reset.withFetchWord 1 1)) (fun t => (t.pump.req, t.env.rxReleased)) = some (false, true) := by decide

/-- V-EN-3, S9, V-EN-4. -/
theorem test_operand_forms :
    [0, 1, 2, 3].map (byteOf32 57600#32) = [0#8, 0xE1#8, 0#8, 0#8] ∧ le32 0xB0#8 4#8 1#8 0#8 = 66736#32 ∧
    (LineInfo.encodeLC ⟨9600#32, 2#8, 1#8, 7#8, 3#8⟩).toBytes = [0x80#8, 0x25#8, 0#8, 0#8, 2#8, 1#8, 7#8] ∧
    optByteWord 0x55#8 (some 0xFF#8) = 0x1FF#9 ∧ readOptByte 0x0AB#9 = none := by decide

/-! ### Ring Buffer (V-RB-1, V-RB-2, V-RB-3) -/

theorem test_rbAvail : see (exec .rbAvail (buf 8 2 5 [])) (·.ports.respR) = some [.count 5] ∧
    see (exec .rbAvail (buf 8 0 1 [])) (·.ports.respR) = some [.count 7] ∧
    see (exec .rbAvail (buf 1024 10 1000 [])) (·.ports.respR) = some [.count 34] := by decide

/-- V-RB-2 step 6: the last cell is written and `head` wraps. -/
theorem test_rbWrite_wraps :
    see (exec (.rbWrite 0xDD#8) (full4.setTail 1)) (fun t => (t.ring.head, t.ring.tail, t.cell 3, t.cell 2, t.ports.respR)) =
      some (0, 1, 0xDD#8, 0xC#8, [.ok true]) := by decide

/-- V-RB-2 step 4; V-RB-3: the smallest buffer. -/
theorem test_rbWrite_full :
    see (exec (.rbWrite 0xDD#8) full4) (fun t => (t.ring, t.ports.respR)) = some (full4.ring, [.ok false]) ∧
    see (exec (.rbWrite 0x22#8) (buf 2 1 0 [(0, 0x11#8)])) (·.ports.respR) = some [.ok false] := by decide

/-- V-RB-2 steps 11 and 12: the cell keeps its byte, `tail` wraps; then nothing is left. -/
theorem test_rbRead : see (exec .rbRead wrap4) (fun t => (t.ring.tail, t.ring.storage, t.ports.respR)) =
      some (0, wrap4.ring.storage, [.opt (some 0xDD#8)]) ∧
    see (exec .rbRead (start 4)) (fun t => (t.ring.tail, t.ports.respR)) = some (0, [.opt none]) := by decide

/-- V-RB-2 steps 10 and 13. -/
theorem test_rbPeek : see (exec .rbPeek wrap4) (fun t => (t.ring, t.ports.respR)) = some (wrap4.ring, [.opt (some 0xDD#8)]) ∧
    see (exec .rbPeek (start 4)) (·.ports.respR) = some [.opt none] := by decide

/-! ### Receive Pump (V-PU-2, V-PU-3, V-PU-4) -/

/-- R136: taken during a pass and during the stall too. -/
theorem test_rxReady : see (exec .rxReady (ctlAt .waitFifo slcPacket (pumpAt .u3 (start 4)))) (·.pump.req) = some true := by decide

/-- R90, R213: a SETUP that waits in a stall holds back no RX_READY behind it; R67: presented, it is the packet's arrival. -/
theorem test_rxReady_is_never_masked :
    (let s := (ctlAt .waitFifo slcPacket (start 4)).setPortU [⟨0b10#2, glcPacket⟩, ⟨0b01#2, 0#64⟩];
      see (runPick .usbOp s) (fun t => (t.pump.req, t.ports.portU)) = some (true, [⟨0b10#2, glcPacket⟩])) ∧
    (let s := (start 4).setEnv { (start 4).env with rxFuture := [[5#8]] };
      see (runPick (.presentUsb ⟨0b01#2, 0#64⟩) s) (fun t => (t.env.rxq, t.env.rxReleased, t.pump.req, t.ports.portU)) =
        some ([5#8], false, true, [])) := by decide

/-- V-PU-2: three bytes stored, two stay, no release. -/
theorem test_pump_stops_on_full : see (exec .pump (held 4 [1#8, 2#8, 3#8, 4#8, 5#8]))
    (fun t => (t.ring, t.env.rxq, t.env.rxReleased, t.pump.req, t.pump.phase)) =
      some (⟨[(0, 1#8), (1, 2#8), (2, 3#8)], 3, 0⟩, [4#8, 5#8], false, false, .idle) := by decide

/-- V-PU-3: a zero-length packet is released; V-PU-4: exactly `C-1` bytes are not. -/
theorem test_pump_release : see (exec .pump (held 4 [])) (fun t => (t.ring.head, t.env.rxReleased)) = some (0, true) ∧
    see (exec .pump (held 4 [1#8, 2#8, 3#8])) (fun t => (t.ring.head, t.env.rxq, t.env.rxReleased)) = some (3, [], false) := by decide

/-! ### Control requests (V-CT-1, V-CT-4, programs P2, P4) -/

/-- R150, R68: the packet is latched and the FIFO emptied; a SETUP that comes during a request waits. -/
theorem test_setup : see (exec (.setup glcPacket) (ep0 [1#8] (start 4))) (fun t => (t.ctl.phase, t.ctl.setup, t.env.ep0q)) =
      some (.dispatch .t2, glcPacket, []) ∧
    see (exec (.setup glcPacket) (ctlAt .waitFifo slcPacket (start 4))) (fun t => (t.ctl.setup, t.ports.portU)) =
      some (slcPacket, [⟨0b10#2, glcPacket⟩]) := by decide

/-- V-CT-1. -/
theorem test_getLineCoding : see (exec (.getLineCoding 0#16 0#16 2#16) (ctlAt (.dispatch .t2) glcPacket (start 4)))
    (fun t => (t.env.ctlIn, t.ports.respU, t.ctl.phase)) =
      some ([[0#8, 0xC2#8, 1#8, 0#8, 0#8, 0#8, 8#8]], [true], .idle) := by decide

/-- V-CT-4: at the seventh byte the record is written, `lineState` kept, and what is left stays in the FIFO. -/
theorem test_setLineCoding : see (runPick .ctrlOp (ep0 (data1200 ++ [0x99#8]) (ctlAt .waitFifo slcPacket (start 4))))
    (fun t => (t.line, t.env.ep0q, t.ports.respU, t.stall)) =
      some (⟨1200#32, 0#8, 0#8, 8#8, 0#8⟩, [0x99#8], [true], false) := by decide

/-- V-CT-4: at six bytes it stalls. -/
theorem test_setLineCoding_stalls :
    see (exec (.setLineCoding 0#16 0#16 7#16) (ep0 (data1200.take 6) (ctlAt (.dispatch .t2) slcPacket (start 4))))
      (fun t => (t.stall, t.line, t.env.ep0q.length)) = some (true, (start 4).line, 6) := by decide

/-- P2: DTR cleared at 1200 baud schedules; S7: at 9600 it does not. -/
theorem test_setControlLineState_schedules :
    see (exec (.setControlLineState 0#16 0#16 0#16) (ctlAt (.dispatch .t2) 0x2221#64 (clock 1000 (baud 1200#32 (start 4)))))
      (fun t => (t.env.rstPending, t.env.rstDeadline)) = some (true, 1250) ∧
    see (exec (.setControlLineState 0#16 0#16 0#16) (ctlAt (.dispatch .t2) 0x2221#64 (clock 1000 (baud 9600#32 (start 4)))))
      (·.env.rstPending) = some false := by decide

/-- P2: DTR set at 1200 baud cancels; all eight bits of the low byte are stored (V-EN-2). -/
theorem test_setControlLineState_cancels :
    see (exec (.setControlLineState 0x01FF#16 0#16 0#16) (ctlAt (.dispatch .t2) sclsPacket
      ((baud 1200#32 (start 4)).scheduleReset 250))) (fun t => (t.env.rstPending, t.line.lineState, t.ports.respU)) =
      some (false, 0xFF#8, [true]) := by decide

/-- R168. -/
theorem test_ctrlUnhandled : see (exec (.ctrlUnhandled 0x2321#64) (ctlAt (.dispatch .t2) 0x2321#64 (start 4)))
    (fun t => (t.ctl.phase, t.ports.respU, t.line)) = some (.idle, [false], (start 4).line) := by decide

/-! ### Serial-Port Facade (programs P1, P3) -/

theorem test_openPort_closePort : see (exec .openPort full4) (·.ports.respA) = some [.nothing] ∧
    see (exec .closePort full4) (fun t => (t.ring, t.ports.respA)) = some (full4.ring, [.nothing]) := by decide

/-- R181: `open(1200, …)` does not touch LineInfo. -/
theorem test_openCfg : see (exec (.openCfg 1200#32 6#16) (start 4)) (fun t => (t.line, t.ports.respA)) =
    some ((start 4).line, [.nothing]) := by decide

theorem test_avail_peek : see (exec .avail wrap4) (·.ports.respA) = some [.count 1] ∧
    see (exec .peek wrap4) (fun t => (t.ring.tail, t.ports.respA)) = some (3, [.optByte (some 0xDD#8)]) := by decide

/-- V-PU-5: data left in the endpoint, so a pass is asked for; R191: none on an empty buffer, and no trigger. -/
theorem test_read : see (exec .read (wrap4.setEnv { wrap4.env with rxq := [2#8], rxReleased := false }))
      (fun t => (t.ring.tail, t.pump.req, t.ports.respA)) = some (0, true, [.optByte (some 0xDD#8)]) ∧
    see (exec .read ((start 4).setEnv { (start 4).env with rxq := [2#8], rxReleased := false }))
      (fun t => (t.pump.req, t.ports.respA)) = some (false, [.optByte none]) := by decide

/-- P3: `sendBytes` answers 2 of 2, then FAIL. -/
theorem test_write :
    see (exec (.write [0x48#8, 0x69#8]) { start 4 with drive := { (start 4).drive with sendAnswers := [.count 2] } })
      (fun t => (t.env.txlog, t.writeError, t.ports.respA)) = some ([0x48#8, 0x69#8], false, [.sent 2]) ∧
    see (exec (.write [0x21#8]) { start 4 with drive := { (start 4).drive with sendAnswers := [.fail] } })
      (fun t => (t.env.txlog, t.writeError, t.ports.respA)) = some ([], true, [.sent 0]) := by decide

theorem test_flush : see (exec .flush full4) (fun t => (t.env.txFlushes, t.ports.respA)) = some (1, [.nothing]) := by decide

/-- S5: 499 ms, false at once. -/
theorem test_isOpen_holdoff : see (exec .isOpen (clock 499 ((start 4).setLineState 3#8))) (fun t => (t.app, t.ports.respA)) =
    some (.idle, [.flag false]) := by decide

/-- R200: a late sample at 510 ms; at 509 ms the delay is not over. -/
theorem test_isOpen_delay :
    see (runPick .appMicro (clock 510 (((start 4).setLineState 3#8).setApp (.isOpenA4 500 none)))) (·.ports.respA) = some [.flag true] ∧
    see (runPick .appMicro (clock 509 (((start 4).setLineState 3#8).setApp (.isOpenA4 500 none)))) (·.app) =
      some (.isOpenA4 500 none) := by decide

theorem test_getWerr_clrWerr : see (exec .getWerr (start 4).markWriteError) (fun t => (t.writeError, t.ports.respA)) =
      some (true, [.flag true]) ∧
    see (exec .clrWerr (start 4).markWriteError) (fun t => (t.writeError, t.ports.respA)) = some (false, [.nothing]) := by decide

theorem test_appReserved : see (exec (.appReserved 0xB#4) full4) (fun t => (t.ring, t.ports.respA)) =
    some (full4.ring, [.err true]) := by decide

/-- R70, R240: a due reset fires; `storage` and the log are gone, the parameters stay. -/
theorem test_fire : see (runPick .fire (clock 250 ((start 4).scheduleReset 250).markWriteError))
    (fun t => (t.env.rstPending, t.env.nowMs, t.writeError, t.params.C)) = some (false, 0, false, 4) ∧
    see (runPick .fire (clock 249 ((start 4).scheduleReset 250))) (·.env.nowMs) = some 249 := by decide

/-- P3, lines 7 to 13, from 499 ms: the ISOPEN ends when its delay is over, and the commands after it are taken (R245). -/
theorem test_trace_p3 :
    (let s := { clock 499 ((start 4).setLineState 3#8) with drive := { (start 4).drive with sendAnswers := [.count 2, .fail], earlyDraws := [true] } };
      see (runTrace [.tick 1, .app (appWord 0x8#4), .tick 10, .app (encodeApp (.write [0x48#8, 0x69#8])),
        .app (encodeApp (.write [0x21#8])), .app (appWord 0x9#4)] s)
        (fun t => (t.ports.respA, t.quiescent, t.ports.portA, t.env.nowMs)) =
        some ([.flag true, .sent 2, .sent 0, .flag true], true, [], 510)) := by decide

/-- P5, lines 1 to 3: each READ followed at once by the whole pass it asked for. -/
theorem test_trace_p5 : see (runTrace [.pkt [1#8, 2#8, 3#8, 4#8, 5#8], .app (appWord 0x5#4), .app (appWord 0x5#4)] (start 4))
    (fun t => (t.ring.head, t.ring.tail, t.env.rxq, t.env.rxReleased, t.pump.req)) = some (1, 2, [], false, false) := by decide

/-- V-ST-2: a pass held by a stall goes on when the data stage is there. -/
theorem test_trace_st2 :
    see (runTrace [.setup slcPacket, .data data1200] (pumpAt .u1 { buf 8 1 0 [(0, 1#8)] with
      env := { (start 8).env with rxq := [2#8, 3#8], rxReleased := false } }))
      (fun t => (t.ring.head, t.env.rxReleased, t.line.dwDTERate, t.quiescent)) = some (3, true, 1200#32, true) := by decide

/-! ### Witnesses: states and operands that meet a statement's hypotheses, clause by clause, at boundary values -/

/-- A next state with a property, from its evaluation. -/
theorem exists_next {o : Outcome} {P : State → Prop} [DecidablePred P] (h : see o (fun t => decide (P t)) = some true) :
    ∃ t, o = .next t ∧ P t := by
  cases o with
  | next t => exact ⟨t, rfl, by simpa [see, after] using h⟩
  | fault e => simp [see, after] at h
  | refused e => simp [see, after] at h

/-- A full buffer with the endpoint holding more, a command running: the invariant with every part in use. -/
def busy : State := { (pumpAt .u1 full4).setApp .readD2 with env := { full4.env with rxq := [9#8], rxReleased := false } }

theorem inv_start : Inv (start 4) := ⟨by decide, by decide, trivial, trivial, trivial, fun _ => rfl, by decide⟩

theorem inv_busy : Inv busy := ⟨by decide, by decide, trivial, (rfl : busy.empty = false), trivial, by decide, by decide⟩

/-- O1. -/
theorem witness_DecodeOfEncodeIsTheOperation : Instr.wf (Params.withOpen 0 1) (.write [0xFF#8]) = true ∧
    Instr.wf (cfg 4) (.appReserved 0xF#4) = true ∧ Instr.wf (cfg 4) (.ctrlUnhandled 0#64) = true ∧
    Instr.wf (cfg 4) (.setLineCoding 0xFFFF#16 0#16 7#16) = true ∧
    Instr.wf (cfg 4) (.setControlLineState 0xFFFF#16 0#16 7#16) = true := by decide

/-- O2: words with operands that their operations do not carry. -/
theorem witness_EncodeOfDecodeIsTheCanonicalWord : decode (cfg 4) (.app ⟨0x5#4, 9#32, 9#16, 3, [1#8]⟩) = .ok .read ∧
    decode (cfg 4) (.usb ⟨0b01#2, slcPacket⟩) = .ok .rxReady ∧ decode (cfg 4) (.rb ⟨0b10#2, 9#8⟩) = .ok .rbRead := by decide

theorem witness_IndexSuccessor : 0 < 2 ∧ 1 < 2 ∧ 1023 < 1024 := by decide

theorem witness_OccupancyLaws : (2 ≤ full4.params.C ∧ full4.ring.head < full4.params.C ∧ full4.ring.tail < full4.params.C) ∧
    (2 ≤ (start 2).params.C ∧ (start 2).ring.head < (start 2).params.C ∧ (start 2).ring.tail < (start 2).params.C) := by decide

theorem witness_IndexWidthIsCeilLogTwo : 2 ≤ (cfg 2).C ∧ 2 ≤ (cfg 1024).C := by decide

theorem witness_ResetSatisfiesInv : (cfg 2).ok = true := by decide

/-- Reset in the middle of a pass; Fire at the deadline; Fire a millisecond early, and with nothing pending. -/
theorem witness_ResetFromAnyState : busy.params.ok = true ∧ (picks [.rst] busy).drive.schedule = [.rst] ∧
    (let s := clock 250 (busy.scheduleReset 250); s.params.ok = true ∧ (picks [.fire] s).drive.schedule = [.fire] ∧
      s.env.rstPending = true ∧ s.env.rstDeadline ≤ s.env.nowMs) ∧
    (clock 249 (busy.scheduleReset 250)).env.nowMs < (clock 249 (busy.scheduleReset 250)).env.rstDeadline ∧
    busy.env.rstPending = false := by decide

/-- A word on each port that its agent can take, the packet in hand, the pass asked for, and a bare schedule. -/
theorem witness_StepRunsTheDecodedOperation :
    (let s := (picks [.appOp] full4).setPortA [appWord 0x5#4];
      s.params.ok = true ∧ s.drive.schedule = [.appOp] ∧ s.app = .idle ∧ s.ctl.phase ≠ .waitFifo ∧
      s.ports.portA = [appWord 0x5#4] ∧ decode s.params (.app (appWord 0x5#4)) = .ok .read) ∧
    (let s := ctlAt .waitFifo slcPacket ((picks [.usbOp] full4).setPortU [⟨0b10#2, glcPacket⟩, ⟨0b01#2, 0#64⟩]);
      s.drive.schedule = [.usbOp] ∧ s.ports.portU = [⟨0b10#2, glcPacket⟩] ++ ⟨0b01#2, 0#64⟩ :: [] ∧
      (∀ x ∈ ([⟨0b10#2, glcPacket⟩] : List UsbEvent), x.uEv = 0b10#2 ∧ s.ctl.phase ≠ .idle) ∧
      decode s.params (.usb ⟨0b01#2, 0#64⟩) = .ok .rxReady) ∧
    (let s := (picks [.usbOp] full4).setPortU [⟨0b10#2, glcPacket⟩];
      s.drive.schedule = [.usbOp] ∧ s.ports.portU = [⟨0b10#2, glcPacket⟩] ∧ s.ctl.phase = .idle ∧
      decode s.params (.usb ⟨0b10#2, glcPacket⟩) = .ok (.setup glcPacket)) ∧
    (let s := (picks [.rbOp] busy.unstalled).setPortR [⟨0b10#2, 0#8⟩];
      s.drive.schedule = [.rbOp] ∧ s.ports.portR = [⟨0b10#2, 0#8⟩] ∧ s.ctl.phase ≠ .waitFifo ∧ (s.setApp .idle).app = .idle ∧
      decode s.params (.rb ⟨0b10#2, 0#8⟩) = .ok .rbRead) ∧
    (let s := ctlAt (.dispatch .t2) slcPacket (picks [.ctrlOp] full4);
      s.drive.schedule = [.ctrlOp] ∧ s.ctl.phase = .dispatch .t2 ∧
      decode s.params (.setup s.ctl.setup) = .ok (.setLineCoding 0#16 0#16 7#16)) ∧
    (let s := picks [.pumpOp] (held 4 [1#8]);
      s.drive.schedule = [.pumpOp] ∧ s.pump.phase = .idle ∧ s.ctl.phase ≠ .waitFifo ∧
      decode s.params (.trig s.pump.req) = .ok .pump) ∧
    (start 4).drive.schedule = [] := by decide

theorem witness_IllFormedInputs : (start 1).params.ok = false ∧
    (let r : AppRequest := ⟨0x6#4, 0#32, 0#16, 0, [1#8]⟩;
      let s := (picks [.appMicro] (start 4)).setPortA [r];
      s.params.ok = true ∧ s.drive.schedule = [.appMicro] ∧ s.app = .idle ∧ s.ctl.phase ≠ .waitFifo ∧ s.ports.portA = [r] ∧
      r.aOp = 0x6#4 ∧ r.aPayload.length ≠ r.aLen) ∧ 2 ^ (Params.withOpen 0 1).lenW ≤ 2 ∧
    (let s := (picks [.usbOp] (start 4)).setPortU [⟨0b11#2, 0#64⟩];
      s.params.ok = true ∧ s.drive.schedule = [.usbOp] ∧ s.ports.portU = [⟨0b11#2, 0#64⟩]) := by decide

theorem witness_OperationWaitsForItsAgent : (busy.app ≠ .idle ∧ Instr.read.format = .app) ∧
    (ctlAt .waitFifo slcPacket (start 4)).ctl.phase = .waitFifo ∧ busy.pump.phase ≠ .idle ∧
    (ctlAt (.dispatch .g2) glcPacket (start 4)).ctl.phase ≠ .idle ∧
    (encode (cfg 4) (.getLineCoding 0#16 0#16 7#16) = .setup glcPacket ∧ (start 4).ctl.phase ≠ .dispatch .t2) := by decide

/-- Six of seven bytes there, a SETUP on port U. -/
theorem witness_StallHoldsEveryAgent :
    let s := (ep0 (data1200.take 6) (ctlAt .waitFifo slcPacket (picks [.ctrlOp] busy))).setPortU [⟨0b10#2, glcPacket⟩];
    s.params.ok = true ∧ s.ctl.phase = .waitFifo ∧ s.drive.schedule = [.ctrlOp] ∧
      s.env.ep0q.length < s.params.slcThreshold ∧ s.ports.portU = [⟨0b10#2, glcPacket⟩] := by decide

/-- Both ways out of the stall. -/
theorem witness_StallEndsOnlyByDataOrReset :
    let s := ep0 data1200 (ctlAt .waitFifo slcPacket (picks [.ctrlMicro] (start 4)));
    s.ctl.phase = .waitFifo ∧ (∃ t, step s = .next t ∧ t.ctl.phase ≠ .waitFifo) ∧
      ∃ t, step (picks [.rst] s) = .next t ∧ t.ctl.phase ≠ .waitFifo :=
  ⟨rfl, exists_next (by decide), exists_next (by decide)⟩

theorem witness_StallBeginsOnlyInSetLineCoding :
    let s := ctlAt (.dispatch .t2) slcPacket (picks [.ctrlOp] (start 4));
    Inv s ∧ s.ctl.phase ≠ .waitFifo ∧ ∃ t, step s = .next t ∧ t.ctl.phase = .waitFifo :=
  ⟨⟨by decide, by decide, trivial, trivial, trivial, fun _ => rfl, by decide⟩, by decide, exists_next (by decide)⟩

/-- For AVAIL, the primitives and the facade commands alike: APP idle, no stall. -/
theorem witness_AvailCountsAndChangesNothing : wrap4.app = .idle ∧ wrap4.ctl.phase ≠ .waitFifo ∧ 0 < wrap4.params.C := by decide

theorem witness_RbWriteStoresOrRefuses : (full4.pump.phase = .idle ∧ full4.ctl.phase ≠ .waitFifo) ∧
    inc full4.params.C full4.ring.head = full4.ring.tail ∧
    (let s := full4.setTail 1; inc s.params.C s.ring.head ≠ s.ring.tail ∧ s.ring.head < s.params.C) := by decide

theorem witness_RbReadDeliversTheOldest : ((start 4).app = .idle ∧ (start 4).ctl.phase ≠ .waitFifo ∧
      (start 4).ring.head = (start 4).ring.tail) ∧
    (wrap4.app = .idle ∧ wrap4.ctl.phase ≠ .waitFifo ∧ wrap4.ring.head ≠ wrap4.ring.tail ∧ wrap4.ring.tail < wrap4.params.C) := by
  decide

theorem witness_PeekChangesNothing : (start 4).ring.head = (start 4).ring.tail ∧
    (wrap4.app = .idle ∧ wrap4.ctl.phase ≠ .waitFifo ∧ wrap4.ring.tail < wrap4.params.C) := by decide

/-- The first index that is out of range. -/
theorem witness_IndexOutOfRangeStops : (let s := buf 4 0 4 [];
      s.ctl.phase ≠ .waitFifo ∧ s.app = .idle ∧ s.ring.head ≠ s.ring.tail ∧ s.params.C ≤ s.ring.tail) ∧
    (let s := buf 4 4 0 [];
      s.ctl.phase ≠ .waitFifo ∧ s.pump.phase = .idle ∧ inc s.params.C s.ring.head ≠ s.ring.tail ∧ s.params.C ≤ s.ring.head) := by
  decide

/-- Room for one more; full; empty; one unread. -/
theorem witness_PrimitivesActOnTheUnreadSequence :
    (2 ≤ full4.params.C ∧ full4.ring.head < full4.params.C ∧ full4.ring.tail < full4.params.C ∧ full4.pump.phase = .idle ∧
      full4.app = .idle ∧ full4.ctl.phase ≠ .waitFifo ∧ full4.unread.length = full4.params.C - 1) ∧
    (full4.setTail 1).unread.length < (full4.setTail 1).params.C - 1 ∧ wrap4.unread = [0xDD#8] ∧ (start 4).unread = [] := by decide

theorem witness_WritesThenReadsGiveTheSequence : let s := buf 4 3 3 [];
    2 ≤ s.params.C ∧ s.ring.head < s.params.C ∧ s.ring.tail = s.ring.head ∧ s.pump.phase = .idle ∧ s.app = .idle ∧
      s.ctl.phase ≠ .waitFifo ∧ ([1#8, 2#8, 3#8] : Bytes).length ≤ s.params.C - 1 := by decide

theorem witness_RxReadyAndPacketArrival : let s := picks [.packet] { start 4 with env := { (start 4).env with rxFuture := [[]] } };
    s.params.ok = true ∧ s.drive.schedule = [.packet] ∧ s.env.rxReleased = true ∧ s.env.rxFuture = [[]] ∧
      (picks [.pkt [1#8]] s).drive.schedule = [.pkt [1#8]] ∧ (held 4 []).env.rxReleased = false := by decide

theorem witness_PassStoresWhatFits : let s := held 4 [1#8, 2#8, 3#8];
    2 ≤ s.params.C ∧ s.ring.head < s.params.C ∧ s.ring.tail < s.params.C ∧ s.pump.phase = .idle ∧ s.pump.req = true ∧
      s.ctl.phase ≠ .waitFifo := by decide

theorem witness_NoPassUnlessAsked : (start 4).pump.req = false ∧ busy.pump.phase ≠ .idle ∧
    (ctlAt .waitFifo slcPacket (held 4 [])).ctl.phase = .waitFifo := by decide

/-- The pump at each of its labels. -/
theorem witness_PumpMicroSteps : ((start 4).ctl.phase ≠ .waitFifo ∧ (start 4).pump.phase = .idle ∧ (start 4).pump.req = false) ∧
    (held 4 []).pump.req = true ∧ (pumpAt .u1 (start 4)).pump.phase = .run .u1 ∧
    ((pumpAt .u2 (held 4 [1#8])).pump.phase = .run .u2 ∧ (held 4 [1#8]).env.rxq ≠ [] ∧ (held 4 []).env.rxq = []) ∧
    ((pumpAt .u3 (held 4 [1#8])).pump.phase = .run .u3 ∧ (held 4 [1#8]).env.rxq = [1#8]) ∧
    ((pumpAt .u4 (buf 4 3 1 [])).pump.phase = .run .u4 ∧ (pumpAt .u4 (buf 4 3 1 [])).ring.head < 4) ∧
    (pumpAt .u5 (start 4)).pump.phase = .run .u5 ∧ (pumpAt .u6 (start 4)).pump.phase = .run .u6 := by decide

theorem witness_PassIsItsMicroSteps : let s := held 2 [1#8, 2#8];
    s.pump.phase = .idle ∧ s.pump.req = true ∧ s.ctl.phase ≠ .waitFifo := by decide

/-- A pass asked for by a packet, by port U, by READ whole and by its step A3; and begun, at either grain, and cut by a reset. -/
theorem witness_PassAskedOnlyByItsTriggers :
    (PortInv (start 4) ∧ PortInv busy) ∧
    (∃ t, step (picks [.pkt []] (start 4)) = .next t ∧ t.pump.req = true) ∧
    (let s := (start 4).setEnv { (start 4).env with rxFuture := [[]] };
      ∃ t, step (picks [.presentUsb ⟨0b01#2, 0#64⟩] s) = .next t ∧ t.pump.req = true) ∧
    (∃ t, step (picks [.pumpOp] (held 4 [])) = .next t ∧ t.pump.req = false) ∧
    (∃ t, step (picks [.pumpMicro] (held 4 [])) = .next t ∧ t.pump.req = false) ∧
    (∃ t, step (picks [.rst] (held 4 [])) = .next t ∧ t.pump.req = false) ∧
    (∃ t, step ((picks [.appOp] { full4 with env := busy.env }).setPortA [appWord 0x5#4]) = .next t ∧ t.pump.req = true) ∧
    ∃ t, step ((picks [.appMicro] busy).setApp (.readA3 1#8)) = .next t ∧ t.pump.req = true :=
  ⟨by decide, exists_next (by decide), exists_next (by decide), exists_next (by decide), exists_next (by decide),
    exists_next (by decide), exists_next (by decide), exists_next (by decide)⟩

/-- V-PU-4's end, and a READ. -/
theorem witness_UnreleasedEndpointStaysDead :
    let s := (picks [.appOp] { full4 with env := { full4.env with rxReleased := false } }).setPortA [appWord 0x5#4];
    s.receiveDead = true ∧ PortInv s ∧ (nextPick s).1 ∉ [Pick.rst, .fire] ∧ ∃ t, step s = .next t ∧ t.ring.tail = 1 :=
  ⟨by decide, by decide, by decide, exists_next (by decide)⟩

theorem witness_SetupIsAccepted : (ep0 [1#8] busy).ctl.phase = .idle := by decide

/-- A packet in hand, T2 next, for each request: the hypotheses of GetLineCodingAnswersSevenBytes, SetControlLineStateAndHeuristic,
UnhandledIsDeclined and RequestIsItsMicroSteps. -/
theorem witness_RequestsInHand : (ctlAt (.dispatch .t2) glcPacket (start 4)).ctl.phase = .dispatch .t2 ∧
    decodeSetup (cfg 4) glcPacket = .getLineCoding 0#16 0#16 7#16 ∧ decodeSetup (cfg 4) slcPacket = .setLineCoding 0#16 0#16 7#16 ∧
    decodeSetup (cfg 4) sclsPacket = .setControlLineState 1#16 0#16 0#16 ∧ decodeSetup (cfg 4) 0#64 = .ctrlUnhandled 0#64 := by
  decide

/-- Seven bytes exactly, and six. -/
theorem witness_SetLineCodingStoresSevenBytes :
    (ep0 data1200 (start 4)).env.ep0q = [0xB0#8, 0x04#8, 0#8, 0#8, 0#8, 0#8, 8#8] ∧
    (start 4).params.slcThreshold ≤ (ep0 data1200 (start 4)).env.ep0q.length ∧
    (ep0 (data1200.take 6) (start 4)).env.ep0q.length < (start 4).params.slcThreshold ∧
    (ctlAt .waitFifo slcPacket (start 4)).ctl.phase = .waitFifo := by decide

/-- Seven bytes there, at once or after a wait; between, a READ, a Tick, another request and the SETUP that the GET comes with. -/
theorem witness_GetAnswersWhatSetStored : let s := ep0 data1200 (ctlAt (.dispatch .t2) slcPacket (start 4));
    (s.ctl.phase = .dispatch .t2 ∧ s.env.ep0q = [0xB0#8, 0x04#8, 0#8, 0#8, 0#8, 0#8, 8#8] ∧
      s.params.slcThreshold ≤ s.env.ep0q.length) ∧ (ctlAt .waitFifo slcPacket s).ctl.phase = .waitFifo ∧
    ∃ u, execBetween [.inl .read, .inr .tick, .inl (.setup sclsPacket), .inl (.setControlLineState 1#16 0#16 0#16),
      .inl (.setup glcPacket)] (start 4) = .next u ∧ u.ctl.phase = .dispatch .t2 := ⟨by decide, rfl, exists_next (by decide)⟩

/-- Each of the four changes happens in some operation. -/
theorem witness_ControlStateHasOneWriterEach : let s := baud 1200#32 (ep0 (0#8 :: data1200) (ctlAt (.dispatch .t2) slcPacket (start 4)));
    (∃ t, exec (.setLineCoding 0#16 0#16 7#16) s = .next t ∧ { t.line with lineState := s.line.lineState } ≠ s.line) ∧
    (∃ t, exec (.setControlLineState 1#16 0#16 0#16) s = .next t ∧ t.line.lineState ≠ s.line.lineState) ∧
    (∃ t, exec (.setControlLineState 0#16 0#16 0#16) s = .next t ∧ t.env.rstPending ≠ s.env.rstPending) ∧
    (∃ t, exec (.setLineCoding 0#16 0#16 7#16) (ep0 [] s) = .next t ∧ t.ctl.phase = .waitFifo) :=
  ⟨exists_next (by decide), exists_next (by decide), exists_next (by decide), exists_next (by decide)⟩

/-- Scheduled, cancelled, fired; by the micro-step L2 and by a request run whole. -/
theorem witness_PendingResetChangesOnlyByHeuristic :
    let s := baud 1200#32 (ctlAt (.dispatch .l2) 0x2221#64 (picks [.ctrlMicro] (start 4)));
    CtlInv s ∧ (∃ t, step s = .next t ∧ t.env.rstPending ≠ s.env.rstPending) ∧
    (∃ t, step (ctlAt (.dispatch .t2) 0x2221#64 (picks [.ctrlOp] s)) = .next t ∧ t.env.rstPending ≠ s.env.rstPending) ∧
    (let s1 := (s.scheduleReset 250).setLineState 1#8; ∃ t, step s1 = .next t ∧ t.env.rstPending ≠ s1.env.rstPending) ∧
    (let s2 := clock 250 (picks [.fire] (s.scheduleReset 250)); ∃ t, step s2 = .next t ∧ t.env.rstPending ≠ s2.env.rstPending) :=
  ⟨(by decide : firstLabel (decodeSetup (cfg 4) 0x2221#64) = .l1), exists_next (by decide), exists_next (by decide), exists_next (by decide), exists_next (by decide)⟩

/-- CTRL at each of its labels. -/
theorem witness_ControlMicroSteps : (start 4).ctl.phase = .idle ∧
    ∀ l ∈ [CtlLabel.t2, .g1, .g2, .s1, .s3, .s4, .s5, .l1, .l2, .l3, .n1],
      (ctlAt (.dispatch l) slcPacket (ep0 data1200 (start 4))).ctl.phase = .dispatch l := by decide

/-- The hypotheses of OpenAndCloseAreNoOps and FlushAndFlagCommands. -/
theorem witness_OpenAndCloseAreNoOps : full4.app = .idle ∧ full4.ctl.phase ≠ .waitFifo := by decide

/-- The hypotheses of ReadConsumesAndTriggers. -/
theorem witness_ReadConsumesAndTriggers : (let s := { wrap4 with env := busy.env };
      s.app = .idle ∧ s.ctl.phase ≠ .waitFifo ∧ s.ring.head ≠ s.ring.tail ∧ s.ring.tail < s.params.C) ∧
    (start 4).ring.head = (start 4).ring.tail := by decide

/-- The three listed answers at their bounds (two bytes offered: 2, 3, FAIL), and none listed. -/
theorem witness_WriteReturnsTheAcceptedCount :
    (∃ t, exec (.write [1#8, 2#8]) { start 4 with drive := { (start 4).drive with sendAnswers := [.count 2] } } = .next t ∧
      t.env.txlog = [1#8, 2#8]) ∧
    see (exec (.write [1#8, 2#8]) { start 4 with drive := { (start 4).drive with sendAnswers := [.count 3] } }) (·.app) = none ∧
    (∃ t, exec (.write [1#8, 2#8]) { start 4 with drive := { (start 4).drive with sendAnswers := [.count (-1)] } } = .next t ∧
      t.writeError = true) ∧
    ((start 4).app = .idle ∧ (start 4).ctl.phase ≠ .waitFifo ∧ (start 4).drive.sendAnswers = []) :=
  ⟨exists_next (by decide), by decide, exists_next (by decide), by decide⟩

/-- The last millisecond of the hold-off, its end, and the delay at and before its end. -/
theorem witness_IsOpenHoldsOffThenDelays :
    (clock 499 (start 4)).env.nowMs < (start 4).params.bootHoldoffMs ∧
    (start 4).params.bootHoldoffMs ≤ (clock 500 (start 4)).env.nowMs ∧ (start 4).drive.earlyDraws = [] ∧
    (let s := clock 510 ((start 4).setApp (.isOpenA4 500 none)); s.app = .isOpenA4 500 none ∧ 500 + s.params.settleMs ≤ s.env.nowMs) ∧
    (clock 509 (start 4)).env.nowMs < 500 + (start 4).params.settleMs := by decide

/-- APP idle with a command waiting (the hypotheses of CommandIsItsMicroSteps too), and READ at each of its labels. -/
theorem witness_ReadMicroSteps : (let s := wrap4.setPortA [appWord 0x5#4];
      s.ctl.phase ≠ .waitFifo ∧ s.app = .idle ∧ s.ports.portA = [appWord 0x5#4] ∧
      decode s.params (.app (appWord 0x5#4)) = .ok .read) ∧
    ((wrap4.setApp .readD2).app = .readD2 ∧ (wrap4.setApp .readD2).ring.tail < 4) ∧
    ∀ ph ∈ [AppPhase.taken .read, .readD3 1#8, .readA2 none, .readA2 (some 1#8), .readA3 1#8, .readA4 1#8],
      (wrap4.setApp ph).app = ph := by decide

/-- The flag set and cleared, whole and by micro-steps. -/
theorem witness_WriteErrorIsSticky :
    (let s := (picks [.appOp] { start 4 with drive := { (start 4).drive with sendAnswers := [.fail] } }).setPortA
        [⟨0x6#4, 0#32, 0#16, 1, [1#8]⟩];
      s.writeError = false ∧ ∃ t, step s = .next t ∧ t.writeError = true) ∧
    (let s := (picks [.appMicro] (start 4)).setApp (.writeA2 .fail); s.writeError = false ∧ ∃ t, step s = .next t ∧ t.writeError = true) ∧
    (let s := (picks [.appOp] (start 4).markWriteError).setPortA [appWord 0xA#4];
      s.writeError = true ∧ ∃ t, step s = .next t ∧ t.writeError = false) ∧
    (let s := picks [.rst] (start 4).markWriteError; s.writeError = true ∧ ∃ t, step s = .next t ∧ t.writeError = false) := by
  refine ⟨⟨rfl, ?_⟩, ⟨rfl, ?_⟩, ⟨rfl, ?_⟩, rfl, ?_⟩ <;> exact exists_next (by decide)

theorem witness_ReceiveSideIgnoresTransmitSide : (∃ t, exec .flush { full4 with env := busy.env } = .next t ∧ t.env.txFlushes = 1) ∧
    (∃ t, exec .clrWerr wrap4.markWriteError = .next t ∧ t.writeError = false) ∧ (∃ t, exec .read wrap4 = .next t ∧ t.ring.tail = 0) ∧
    ∃ t, exec .pump (held 4 [1#8]) = .next t ∧ t.ring.head = 1 :=
  ⟨exists_next (by decide), exists_next (by decide), exists_next (by decide), exists_next (by decide)⟩

/-- Bytes accepted behind bytes accepted before. -/
theorem witness_TransmitLogOnlyGrows :
    let s := (picks [.appOp] { start 4 with
      env := { (start 4).env with txlog := [7#8] }
      drive := { (start 4).drive with sendAnswers := [.count 1] } }).setPortA [⟨0x6#4, 0#32, 0#16, 1, [8#8]⟩];
    ∃ t, step s = .next t ∧ t.env.txlog = [7#8, 8#8] := exists_next (by decide)

/-- Each field does change in some step. -/
theorem witness_OneWriterPerField :
    (∃ t, step (picks [.pumpOp] (held 4 [1#8])) = .next t ∧ t.ring.head = 1) ∧
    (∃ t, step ((picks [.rbOp] wrap4).setPortR [⟨0b10#2, 0#8⟩]) = .next t ∧ t.ring.tail = 0) ∧
    (∃ t, step (ctlAt (.dispatch .l1) sclsPacket (picks [.ctrlMicro] (start 4))) = .next t ∧ t.line.lineState = 1#8) ∧
    ∃ t, step (picks [.tick] (start 4)) = .next t ∧ t.env.nowMs = 1 :=
  ⟨exists_next (by decide), exists_next (by decide), exists_next (by decide), exists_next (by decide)⟩

theorem witness_DataArrivalAndTick : (picks [.data [1#8]] busy).params.ok = true ∧
    (picks [.data [1#8]] busy).drive.schedule = [.data [1#8]] ∧ (picks [.tick] busy).drive.schedule = [.tick] := by decide

/-- The invariant holds in the middle of a pass and of a READ, and a step follows. -/
theorem witness_StepKeepsInv : Inv (picks [.appMicro] busy) ∧ ∃ t, step (picks [.appMicro] busy) = .next t ∧ t.app = .readD3 0xA#8 :=
  ⟨inv_busy, exists_next (by decide)⟩

/-- From the invariant, the two stops that are left. -/
theorem witness_InvStepsDoNotStop :
    (let s := (picks [.appOp] { start 4 with drive := { (start 4).drive with sendAnswers := [.count 2] } }).setPortA
        [⟨0x6#4, 0#32, 0#16, 1, [1#8]⟩];
      Inv s ∧ step s = .fault .sentMoreThanOffered) ∧
    (let s := (picks [.appOp] (start 4)).setPortA [⟨0x6#4, 0#32, 0#16, 2, [1#8]⟩];
      Inv s ∧ step s = .refused .malformedRequest) := ⟨⟨inv_start, rfl⟩, ⟨inv_start, rfl⟩⟩

/-- A byte delivered, a packet arriving, an RB_WRITE of port R. -/
theorem witness_ReceivedBytesKeepTheirOrder :
    (let s := (picks [.appOp] full4).setPortA [appWord 0x5#4];
      s.stream = [0xA#8, 0xB#8, 0xC#8] ∧ ∃ t, step s = .next t ∧ t.stream = [0xB#8, 0xC#8]) ∧
    (∃ t, step (picks [.pkt [5#8]] full4) = .next t ∧ t.stream = [0xA#8, 0xB#8, 0xC#8, 5#8]) ∧
    (∃ t, step ((picks [.rbOp] wrap4).setPortR [⟨0b01#2, 6#8⟩]) = .next t ∧ t.unread = [0xDD#8, 6#8]) :=
  ⟨⟨by decide, exists_next (by decide)⟩, exists_next (by decide), exists_next (by decide)⟩

/-- At rest; an ISOPEN in its delay; a command that waits. -/
theorem witness_NothingEnabledIsQuiescent : Inv (start 4) ∧ nextEnabled (start 4) = none ∧ (start 4).stall = false ∧
    (start 4).quiescent = true ∧ nextEnabled (clock 509 ((start 4).setApp (.isOpenA4 500 none))) = none ∧
    nextEnabled ((start 4).setPortA [appWord 0x5#4]) = some .appMicro ∧ nextEnabled busy = some .appMicro :=
  ⟨inv_start, by decide, by decide, by decide, by decide, by decide, by decide⟩

/-- One state in which a step of each kind is enabled, and each answers a next state; and a state that settles. -/
theorem witness_SettlingEnds :
    (let s := (ctlAt (.dispatch .g1) glcPacket (busy.setPortU [⟨0b11#2, 0#64⟩]));
      (∀ p ∈ [Pick.ctrlMicro, .usbOp, .appMicro, .pumpMicro], s.enabled p = true ∧ (see (runPick p s) (·.params.C)) = some 4) ∧
      (let r := (wrap4.setPortR [⟨0b10#2, 0#8⟩]); r.enabled .rbOp = true ∧ ∃ t, runPick .rbOp r = .next t ∧ t.ring.tail = 0)) ∧
    ∃ t, settle busy = .next t ∧ t.quiescent = true :=
  ⟨⟨by decide, by decide, exists_next (by decide)⟩, exists_next (by decide)⟩

end Sys2Proof.Tests
end

section
/-!
Proofs of the statements of 00_scope.md: the width of an index (R6, R7) and the index successor (R9).
-/

namespace Sys2Proof

/-! ### The index width (R6, R7) -/

theorem Params.one_le_indexWidth (p : Params) : 1 ≤ p.indexWidth := Nat.le_add_left 1 _

/-- The greatest index lies below `2 ^ W`, so that every index has `W` bits. -/
theorem Params.C_le_two_pow_indexWidth (p : Params) : p.C ≤ 2 ^ p.indexWidth := by
  have hlast : p.C - 1 < 2 ^ p.indexWidth := Nat.lt_log2_self
  omega

/-- One bit less does not hold the greatest index. With one cell the only index is 0, whose least width R6 sets to one bit. -/
theorem Params.two_pow_pred_indexWidth_lt (p : Params) (hC : 2 ≤ p.C) : 2 ^ (p.indexWidth - 1) < p.C := by
  have hlast : 2 ^ (p.indexWidth - 1) ≤ p.C - 1 := Nat.log2_self_le (by omega)
  omega

namespace Machine

/-- Settles O9, from the bounds of `Nat.log2` at the greatest index `C - 1`. -/
theorem indexWidthIsCeilLogTwo : Obligations.IndexWidthIsCeilLogTwo := fun p hC =>
  ⟨p.one_le_indexWidth, p.C_le_two_pow_indexWidth, p.two_pow_pred_indexWidth_lt hC⟩

/-! ### The index successor (R9) -/

theorem inc_eq_ite {C i : Nat} (h : i < C) : inc C i = if i = C - 1 then 0 else i + 1 := by
  split
  case isTrue hlast => rw [hlast, inc_last (by omega)]
  case isFalse hbelow => exact inc_of_lt (by omega)

/-- Settles O7: the case form splits at the last index. -/
theorem indexSuccessor : Obligations.IndexSuccessor := fun _ _ h =>
  ⟨rfl, inc_eq_ite h, inc_lt (by omega)⟩

end Machine
end Sys2Proof
end

section
/-!
Proofs of the statements of 10_state.md, first part: what an outcome ensures, and the rules of the Ring Buffer's registers over the
unread cells (R24, R111).
-/

namespace Sys2Proof.Machine

variable {s t : State} {Q : State → Prop}

/-! ### What an outcome ensures -/

/-- The next state, if the outcome answers one, has the property. -/
def Ensures (o : Outcome) (Q : State → Prop) : Prop := ∀ t, o = .next t → Q t

namespace Ensures

variable {o : Outcome} {i : Instr} {k : State → Outcome}

theorem next (h : Q t) : Ensures (.next t) Q := by
  rintro _ ⟨⟩
  exact h

theorem fault (e : Fault) : Ensures (.fault e) Q := fun _ ht => absurd ht (by simp)

theorem mono {R : State → Prop} (h : Ensures o R) (hRQ : ∀ t, R t → Q t) : Ensures o Q := fun t ht => hRQ t (h t ht)

theorem andThen {f : State → Outcome} (h : Ensures o fun u => Ensures (f u) Q) : Ensures (andThen o f) Q := fun t ht => by
  obtain ⟨u, ho, hf⟩ := andThen_eq_next ht
  exact h u ho t hf

theorem withResult {α : Type} {r : Except Fault (α × State)} {f : α → State → Outcome}
    (h : ∀ a u, r = .ok (a, u) → Ensures (f a u) Q) : Ensures (withResult r f) Q := fun t ht => by
  obtain ⟨a, u, hr, hf⟩ := withResult_eq_next ht
  exact h a u hr t hf

theorem takeApp (hwait : Q (s.setPortA (encodeApp i :: s.ports.portA))) (hrun : s.appReady = true → Ensures (k s) Q) :
    Ensures (takeApp i s k) Q := fun t ht => by
  obtain ⟨hr, hk⟩ | ⟨-, rfl⟩ := takeApp_eq_next ht
  · exact hrun hr t hk
  · exact hwait

theorem takeCtl {w : SetupPacket} (hwait : Q (s.setPortU (⟨0b10#2, w⟩ :: s.ports.portU)))
    (hrun : s.ctlReady = true → Ensures (k s) Q) : Ensures (takeCtl w s k) Q := fun t ht => by
  obtain ⟨hr, hk⟩ | ⟨-, rfl⟩ := takeCtl_eq_next ht
  · exact hrun hr t hk
  · exact hwait

theorem takeRb {ready : Bool} {r : RbRequest} (hwait : Q (s.setPortR (r :: s.ports.portR)))
    (hrun : ready = true → Ensures (k s) Q) : Ensures (takeRb ready r s k) Q := fun t ht => by
  obtain ⟨hr, hk⟩ | ⟨-, rfl⟩ := takeRb_eq_next ht
  · exact hrun hr t hk
  · exact hwait

theorem takeRequest {f : Instr → State → Outcome} (hnone : Q s)
    (htake : ∀ r rest i, s.ports.portA = r :: rest → decodeApp s.params r = .ok i → Ensures (f i (s.setPortA rest)) Q) :
    Ensures (takeRequest s f) Q := fun t ht => by
  obtain ⟨-, rfl⟩ | ⟨r, rest, i, hp, hi, hf⟩ := takeRequest_eq_next ht
  · exact hnone
  · exact htake r rest i hp hi t hf

theorem withTailByte {f : Byte → State} (h : Q (f (s.cell s.ring.tail))) : Ensures (withTailByte s f) Q := by
  unfold Machine.withTailByte
  split
  next v hv => exact .next ((memRead_eq_ok hv).2 ▸ h)
  next e he => exact .fault e

end Ensures

/-! ### Indices and unread cells (R9, R24, R111) -/

theorem empty_eq_false_iff : s.empty = false ↔ s.ring.head ≠ s.ring.tail := by simp [State.empty]

theorem full_eq_false_iff : s.full = false ↔ inc s.params.C s.ring.head ≠ s.ring.tail := by simp [State.full]

/-- The occupancy without the remainder: `head` at or behind `tail` in one lap, or wrapped. -/
theorem avail_eq_ite (hh : s.ring.head < s.params.C) (ht : s.ring.tail < s.params.C) :
    s.avail = if s.ring.tail ≤ s.ring.head then s.ring.head - s.ring.tail else s.params.C + s.ring.head - s.ring.tail := by
  unfold State.avail
  split
  case isTrue h => rw [Nat.add_sub_assoc h, Nat.add_mod_left, Nat.mod_eq_of_lt (by omega)]
  case isFalse h => exact Nat.mod_eq_of_lt (by omega)

/-- Consuming from a non-empty buffer leaves one unread byte less. -/
theorem avail_setTail_inc (hh : s.ring.head < s.params.C) (ht : s.ring.tail < s.params.C) (hne : s.empty = false) :
    (s.setTail (inc s.params.C s.ring.tail)).avail + 1 = s.avail := by
  have hneq := empty_eq_false_iff.mp hne
  have hlt : inc s.params.C s.ring.tail < s.params.C := inc_lt (by omega)
  rw [avail_eq_ite hh ht, avail_eq_ite (s := s.setTail (inc s.params.C s.ring.tail)) hh hlt]
  simp only [State.setTail_ring, State.setTail_params, inc_eq_ite ht]
  split_ifs <;> omega

/-- Advancing `head` where there is room makes one more byte unread. -/
theorem avail_setHead_inc (hh : s.ring.head < s.params.C) (ht : s.ring.tail < s.params.C) (hroom : s.full = false) :
    (s.setHead (inc s.params.C s.ring.head)).avail = s.avail + 1 := by
  have hneq := full_eq_false_iff.mp hroom
  have hlt : inc s.params.C s.ring.head < s.params.C := inc_lt (by omega)
  rw [avail_eq_ite hh ht, avail_eq_ite (s := s.setHead (inc s.params.C s.ring.head)) hlt ht]
  simp only [State.setHead_ring, State.setHead_params]
  rw [inc_eq_ite hh] at hneq ⊢
  split_ifs at hneq ⊢ <;> omega

/-- After a read the unread cells are those from the second on. -/
theorem unreadCell_setTail_inc (s : State) (k : Nat) :
    (s.setTail (inc s.params.C s.ring.tail)).unreadCell k = s.unreadCell (k + 1) := by
  simp only [State.unreadCell, State.setTail_ring, State.setTail_params, inc, Nat.mod_add_mod]
  rw [Nat.add_assoc, Nat.add_comm 1 k]

/-- The cell behind the last unread byte is the one that `head` names. -/
theorem unreadCell_avail (hh : s.ring.head < s.params.C) (ht : s.ring.tail < s.params.C) : s.unreadCell s.avail = s.ring.head := by
  unfold State.unreadCell State.avail
  rw [Nat.add_mod_mod, show s.ring.tail + (s.params.C + s.ring.head - s.ring.tail) = s.params.C + s.ring.head by omega,
    Nat.add_mod_left, Nat.mod_eq_of_lt hh]

/-- Consuming makes room. -/
theorem full_setTail_inc (hh : s.ring.head < s.params.C) (ht : s.ring.tail < s.params.C) (hne : s.empty = false) :
    (s.setTail (inc s.params.C s.ring.tail)).full = false :=
  full_eq_false_iff.mpr fun h => empty_eq_false_iff.mp hne (inc_injective hh ht h)

/-- Where there is room, an advance of `head` never makes the buffer look empty. -/
theorem empty_setHead_inc (hroom : s.full = false) : (s.setHead (inc s.params.C s.ring.head)).empty = false :=
  empty_eq_false_iff.mpr (full_eq_false_iff.mp hroom)

/-- The byte in the cell `a` replaced by `b`: what `memWrite` answers for a cell that exists. -/
def State.store (s : State) (a : Nat) (b : Byte) : State := { s with ring := { s.ring with storage := s.ring.storage.put a b } }

theorem memWrite_eq_store {a : Nat} {b : Byte} (h : s.memWrite a b = .ok t) : a < s.params.C ∧ t = s.store a b := memWrite_eq_ok h

theorem cell_store_other {a a' : Nat} (b : Byte) (h : a' ≠ a) : (s.store a b).cell a' = s.cell a' := by
  simp only [State.cell, State.store, Memory.get?_put_other _ _ _ _ h]

/-- A cell that has been written stays so. -/
theorem Memory.isSome_get?_put {m : Memory} {a' : Nat} (a : Nat) (b : Byte) (h : (m.get? a').isSome = true) :
    ((m.put a b).get? a').isSome = true := by
  by_cases ha : a' = a
  · rw [ha, Memory.get?_put_same]; rfl
  · rwa [Memory.get?_put_other _ _ _ _ ha]

theorem RingInv.store {a : Nat} (h : RingInv s) (ha : a < s.params.C) (b : Byte) : RingInv (s.store a b) := by
  obtain ⟨hh, ht, hwf, hcells, hunread⟩ := h
  refine ⟨hh, ht, Memory.wf_put _ a b hwf, fun c hc => ?_, fun k hk => Memory.isSome_get?_put a b (hunread k hk)⟩
  obtain rfl | hc := Memory.mem_put hc
  · exact ha
  · exact hcells c hc

theorem RingInv.setTail (h : RingInv s) (hne : s.empty = false) : RingInv (s.setTail (inc s.params.C s.ring.tail)) := by
  obtain ⟨hh, ht, hwf, hcells, hunread⟩ := h
  refine ⟨hh, inc_lt (by omega), hwf, hcells, fun k hk => ?_⟩
  rw [unreadCell_setTail_inc]
  exact hunread (k + 1) (by have := avail_setTail_inc hh ht hne; omega)

/-- `head` may advance over a cell that has been written. -/
theorem RingInv.setHead (h : RingInv s) (hroom : s.full = false) (hstored : (s.ring.storage.get? s.ring.head).isSome = true) :
    RingInv (s.setHead (inc s.params.C s.ring.head)) := by
  obtain ⟨hh, ht, hwf, hcells, hunread⟩ := h
  refine ⟨inc_lt (by omega), ht, hwf, hcells, fun k hk => ?_⟩
  rw [avail_setHead_inc hh ht hroom] at hk
  show (s.ring.storage.get? (s.unreadCell k)).isSome = true
  obtain hlt | rfl := Nat.lt_succ_iff_lt_or_eq.mp hk
  · exact hunread k hlt
  · rwa [unreadCell_avail hh ht]

end Sys2Proof.Machine
end

section
/-!
Proofs of the statements of 10_state.md, second part: what every update of the state needs in order to keep the invariant, one lemma per
update. Where an update writes no field that the invariant reads, the proof is the hypothesis itself.
-/

namespace Sys2Proof

/-! ### Configurations (R6, R7) -/

theorem Params.ok_iff (p : Params) :
    p.ok = true ↔ 2 ≤ p.C ∧ lcLen ≤ p.slcThreshold ∧ p.rtD2H ≠ p.rtH2D ∧ 1 ≤ p.lenW := by
  simp only [Params.ok, Bool.and_eq_true, decide_eq_true_eq, and_assoc]

theorem Params.default_ok : Params.default.ok = true :=
  (Params.ok_iff _).mpr ⟨by decide, by decide, by decide, Nat.le_add_left 1 _⟩

namespace Machine

variable {s t : State}

/-! ### The parts of the invariant -/

namespace Inv

theorem ok (h : Inv s) : s.params.ok = true := h.1
theorem ring (h : Inv s) : RingInv s := h.2.1
theorem pump (h : Inv s) : PumpInv s := h.2.2.1
theorem app (h : Inv s) : AppInv s := h.2.2.2.1
theorem ctl (h : Inv s) : CtlInv s := h.2.2.2.2.1
theorem endpoint (h : Inv s) : EndpointInv s := h.2.2.2.2.2.1
theorem port (h : Inv s) : PortInv s := h.2.2.2.2.2.2

theorem head_lt (h : Inv s) : s.ring.head < s.params.C := h.ring.1
theorem tail_lt (h : Inv s) : s.ring.tail < s.params.C := h.ring.2.1

/-- The least length of a data stage that ends the wait is all that S3 pulls (R7). -/
theorem lcLen_le_slcThreshold (h : Inv s) : lcLen ≤ s.params.slcThreshold := ((Params.ok_iff _).mp h.ok).2.1

end Inv

theorem pumpInv_of_idle (hp : s.pump.phase = .idle) : PumpInv s := by simp only [PumpInv, hp]

theorem pumpInv_u2 (hp : s.pump.phase = .run .u2) :
    PumpInv s ↔ s.pump.nextIndex = inc s.params.C s.ring.head ∧ s.full = false := by simp only [PumpInv, hp]

theorem pumpInv_u3 (hp : s.pump.phase = .run .u3) :
    PumpInv s ↔ s.pump.nextIndex = inc s.params.C s.ring.head ∧ s.full = false ∧ s.env.rxq ≠ [] := by simp only [PumpInv, hp]

theorem pumpInv_u4 (hp : s.pump.phase = .run .u4) :
    PumpInv s ↔ s.pump.nextIndex = inc s.params.C s.ring.head ∧ s.full = false := by simp only [PumpInv, hp]

theorem pumpInv_u5 (hp : s.pump.phase = .run .u5) :
    PumpInv s ↔ s.pump.nextIndex = inc s.params.C s.ring.head ∧ s.full = false ∧
      s.ring.storage.get? s.ring.head = some s.pump.byte := by simp only [PumpInv, hp]

theorem appInv_of_idle (ha : s.app = .idle) : AppInv s := by simp only [AppInv, ha]

theorem ctlInv_of_idle (hc : s.ctl.phase = .idle) : CtlInv s := by simp only [CtlInv, hc]

/-- What a pass's label stands for outlives a step that leaves PUMP's registers and the cell at `head`, fills no room, and takes no
byte from the endpoint. -/
theorem PumpInv.mono (h : PumpInv s) (hparams : t.params = s.params) (hpump : t.pump = s.pump) (hhead : t.ring.head = s.ring.head)
    (hstorage : t.ring.storage = s.ring.storage) (hroom : s.full = false → t.full = false)
    (hrxq : s.env.rxq ≠ [] → t.env.rxq ≠ []) : PumpInv t := by
  unfold PumpInv at h ⊢
  rw [hpump, hparams, hhead, hstorage]
  split at h
  case h_1 | h_2 | h_3 => trivial
  case h_4 | h_6 => exact ⟨h.1, hroom h.2⟩
  case h_5 => exact ⟨h.1, hroom h.2.1, hrxq h.2.2⟩
  case h_7 => exact ⟨h.1, hroom h.2.1, h.2.2⟩

/-- What a command's label stands for outlives a step that leaves APP and the oldest unread byte, and does not turn time back. -/
theorem AppInv.mono (h : AppInv s) (happ : t.app = s.app) (hnow : s.env.nowMs ≤ t.env.nowMs)
    (holdest : s.empty = false → t.empty = false ∧ t.cell t.ring.tail = s.cell s.ring.tail) : AppInv t := by
  unfold AppInv at h ⊢
  rw [happ]
  split at h
  case h_1 => exact h
  case h_2 | h_3 => exact (holdest h).1
  case h_4 => exact ⟨(holdest h.1).1, (holdest h.1).2.trans h.2⟩
  case h_5 => exact h.trans hnow
  case h_6 => trivial

/-- What a request's label stands for outlives a step that leaves CTRL and takes no byte from its data stage. -/
theorem CtlInv.mono (h : CtlInv s) (hparams : t.params = s.params) (hctl : t.ctl = s.ctl)
    (hdata : s.env.ep0q.length ≤ t.env.ep0q.length) : CtlInv t := by
  unfold CtlInv at h ⊢
  rw [hctl, hparams]
  split at h
  case h_1 | h_2 => trivial
  case h_7 => exact ⟨h.1, h.2.trans hdata⟩
  all_goals exact h

namespace Inv

/-! ### Updates of fields that the invariant does not read -/

theorem respondA (h : Inv s) (r : AppResponse) : Inv (s.respondA r) := h
theorem respondU (h : Inv s) (handled : Bool) : Inv (s.respondU handled) := h
theorem respondR (h : Inv s) (r : RbResponse) : Inv (s.respondR r) := h
theorem setPortA (h : Inv s) (ps : List AppRequest) : Inv (s.setPortA ps) := h
theorem setPortR (h : Inv s) (ps : List RbRequest) : Inv (s.setPortR ps) := h
theorem setLine (h : Inv s) (l : LineInfo) : Inv (s.setLine l) := h
theorem setLineState (h : Inv s) (v : Byte) : Inv (s.setLineState v) := h
theorem markWriteError (h : Inv s) : Inv s.markWriteError := h
theorem clearWriteError (h : Inv s) : Inv s.clearWriteError := h
theorem askPass (h : Inv s) : Inv s.askPass := h
theorem takePass (h : Inv s) : Inv s.takePass := h
theorem countDraw (h : Inv s) : Inv s.countDraw := h
theorem flushEndpoint (h : Inv s) : Inv s.flushEndpoint := h
theorem sendControlResponse (h : Inv s) (b : Bytes) : Inv (s.sendControlResponse b) := h
theorem scheduleReset (h : Inv s) (d : Nat) : Inv (s.scheduleReset d) := h
theorem cancelScheduledReset (h : Inv s) : Inv s.cancelScheduledReset := h

theorem applyHeuristic (h : Inv s) : Inv (applyHeuristic s) := by
  unfold Machine.applyHeuristic
  split_ifs
  · exact h.cancelScheduledReset
  · exact h.scheduleReset _
  · exact h

theorem readTrigger (h : Inv s) : Inv (readTrigger s) := by
  unfold Machine.readTrigger
  split
  · exact h.askPass
  · exact h

theorem sampleEarly (h : Inv s) : Inv (sampleEarly s).2 := by
  unfold Machine.sampleEarly drawEarly
  split
  · exact h.countDraw
  · exact h

theorem drawPacket (h : Inv s) : Inv (drawPacket s).2 := by
  unfold Machine.drawPacket
  split
  · exact h.countDraw
  · exact h

theorem nextPick (h : Inv s) : Inv (nextPick s).2 := by
  unfold Machine.nextPick
  split
  · exact h.countDraw
  · exact h

theorem sendBytes {payload : Bytes} {r : SendAnswer} (h : Inv s) (hs : sendBytes payload s = .ok (r, t)) : Inv t := by
  obtain ⟨u, hu, rfl⟩ := sendBytes_eq_ok hs
  obtain ⟨-, ⟨-, -, rfl⟩ | ⟨rest, -, rfl⟩⟩ := drawSend_eq_ok hu
  · exact h
  · exact h

/-! ### Sequencing registers -/

theorem setApp {ph : AppPhase} (h : Inv s) (ha : AppInv (s.setApp ph)) : Inv (s.setApp ph) :=
  ⟨h.ok, h.ring, h.pump, ha, h.ctl, h.endpoint, h.port⟩

theorem appReturn (h : Inv s) (r : AppResponse) : Inv (s.appReturn r) := (h.setApp (ph := .idle) trivial).respondA r

theorem writeResult (h : Inv s) (r : SendAnswer) : Inv (writeResult r s) := by
  unfold Machine.writeResult
  split
  · exact h.markWriteError.appReturn _
  · exact h.appReturn _

theorem setCtlPhase {ph : CtlPhase} (h : Inv s) (hc : CtlInv (s.setCtlPhase ph)) : Inv (s.setCtlPhase ph) :=
  ⟨h.ok, h.ring, h.pump, h.app, hc, h.endpoint, h.port⟩

theorem ctlReturn (h : Inv s) (handled : Bool) : Inv (s.ctlReturn handled) :=
  (h.setCtlPhase (ph := .idle) trivial).respondU handled

theorem setPumpPhase {ph : PumpPhase} (h : Inv s) (hp : PumpInv (s.setPumpPhase ph)) : Inv (s.setPumpPhase ph) :=
  ⟨h.ok, h.ring, hp, h.app, h.ctl, h.endpoint, h.port⟩

/-- Events may leave port U, and others than RX_READY may join (R213). -/
theorem setPortU {ps : List UsbEvent} (h : Inv s) (hps : ∀ e ∈ ps, e ∈ s.ports.portU ∨ e.uEv ≠ 0b01#2) : Inv (s.setPortU ps) :=
  ⟨h.ok, h.ring, h.pump, h.app, h.ctl, h.endpoint, fun e he => (hps e he).elim (h.port e) id⟩

/-- A SETUP that has to wait stands at the head of port U (U18). -/
theorem setupWaits (h : Inv s) (w : SetupPacket) : Inv (s.setPortU (⟨0b10#2, w⟩ :: s.ports.portU)) :=
  h.setPortU fun e he => by
    obtain rfl | he := List.mem_cons.mp he
    · exact .inr (by decide : (0b10#2 : BitVec 2) ≠ 0b01#2)
    · exact .inl he

/-! ### Ring Buffer -/

/-- `tail` advances over the oldest byte; a command that is past its read knows no more of the buffer. -/
theorem setTail (h : Inv s) (hne : s.empty = false) (ha : AppInv (s.setTail (inc s.params.C s.ring.tail))) :
    Inv (s.setTail (inc s.params.C s.ring.tail)) :=
  have hfull := full_setTail_inc h.head_lt h.tail_lt hne
  ⟨h.ok, h.ring.setTail hne, h.pump.mono rfl rfl rfl rfl (fun _ => hfull) id, ha, h.ctl, h.endpoint, h.port⟩

theorem store_head {b : Byte} (h : Inv s) (hp : PumpInv (s.store s.ring.head b)) : Inv (s.store s.ring.head b) :=
  have holdest (hne : s.empty = false) : s.empty = false ∧ (s.store s.ring.head b).cell s.ring.tail = s.cell s.ring.tail :=
    ⟨hne, cell_store_other b (empty_eq_false_iff.mp hne).symm⟩
  ⟨h.ok, h.ring.store h.head_lt b, hp, h.app.mono rfl le_rfl holdest, h.ctl, h.endpoint, h.port⟩

/-- `head` advances over a stored byte. -/
theorem setHead (h : Inv s) (hroom : s.full = false) (hstored : (s.ring.storage.get? s.ring.head).isSome = true)
    (hp : PumpInv (s.setHead (inc s.params.C s.ring.head))) : Inv (s.setHead (inc s.params.C s.ring.head)) :=
  ⟨h.ok, h.ring.setHead hroom hstored, hp, h.app.mono rfl le_rfl fun _ => ⟨empty_setHead_inc hroom, rfl⟩,
    h.ctl, h.endpoint, h.port⟩

/-! ### Endpoints and time -/

/-- An endpoint may be released once it holds nothing (R66). -/
theorem releaseReceiveBuffer (h : Inv s) (hq : s.env.rxq = []) : Inv s.releaseReceiveBuffer :=
  ⟨h.ok, h.ring, h.pump, h.app, h.ctl, fun _ => hq, h.port⟩

theorem ctlT1 (h : Inv s) (packet : SetupPacket) : Inv (ctlT1 packet s) :=
  ⟨h.ok, h.ring, h.pump, h.app, trivial, h.endpoint, h.port⟩

theorem arrive (h : Inv s) (p : Bytes) : Inv (arrive p s) := by
  unfold Machine.arrive
  split
  case isTrue hr =>
    have hempty : s.env.rxq = [] := h.endpoint hr
    exact askPass ⟨h.ok, h.ring, h.pump.mono rfl rfl rfl rfl id fun hq => absurd hempty hq, h.app, h.ctl, nofun, h.port⟩
  case isFalse => exact h

theorem arriveNext (h : Inv s) : Inv (arriveNext s) := by
  unfold Machine.arriveNext
  split
  · exact h.drawPacket.arrive _
  · exact h

theorem dataArrive (h : Inv s) (bs : Bytes) : Inv (dataArrive bs s) :=
  have hlen : s.env.ep0q.length ≤ (s.env.ep0q ++ bs).length := by simp
  ⟨h.ok, h.ring, h.pump, h.app, h.ctl.mono rfl rfl hlen, h.endpoint, h.port⟩

theorem tick (h : Inv s) : Inv (tick s) :=
  ⟨h.ok, h.ring, h.pump, h.app.mono rfl (Nat.le_succ _) fun hne => ⟨hne, rfl⟩, h.ctl, h.endpoint, h.port⟩

/-! ### Reset (R40, R240) -/

/-- Every state with the reset values in the block meets the invariant, whatever stands on its ports but an RX_READY. -/
theorem of_reset (hok : s.params.ok = true) (hring : s.ring = Ring.reset) (hpump : s.pump = Pump.reset) (happ : s.app = .idle)
    (hctl : s.ctl = Ctl.reset) (hrxq : s.env.rxq = []) (hport : PortInv s) : Inv s := by
  have hC : 0 < s.params.C := Nat.lt_of_lt_of_le Nat.zero_lt_two ((Params.ok_iff _).mp hok).1
  have havail : s.avail = 0 := by simp [State.avail, hring, Ring.reset]
  have hringInv : RingInv s :=
    ⟨by rwa [hring], by rwa [hring], by rw [hring]; rfl, by simp [hring, Ring.reset], fun k hk => by omega⟩
  exact ⟨hok, hringInv, pumpInv_of_idle (hpump ▸ rfl), appInv_of_idle happ, ctlInv_of_idle (hctl ▸ rfl), fun _ => hrxq, hport⟩

theorem resetBlock (h : Inv s) : Inv s.resetBlock := of_reset h.ok rfl rfl rfl rfl rfl h.port

theorem fire (h : Inv s) : Inv (fire s) := by
  unfold Machine.fire
  split
  · exact h.resetBlock
  · exact h

theorem resetWith {p : Params} (hok : p.ok = true) : Inv (State.resetWith p) := of_reset hok rfl rfl rfl rfl rfl nofun

end Inv

/-- Settles O11: the reset state, and in it no byte is unread and no label stands for anything. -/
theorem resetSatisfiesInv : Obligations.ResetSatisfiesInv := ⟨fun _ => Inv.resetWith, Inv.resetWith Params.default_ok⟩

end Machine
end Sys2Proof
end

section
/-!
Proofs of the statements of 10_state.md, third part: every operation and every micro-step keeps the invariant, agent by agent, and so does
every step.
-/

namespace Sys2Proof.Machine

variable {s t : State}

/-! ### PUMP (R133) -/

theorem isEndpointDataAvailable_rx_iff : s.isEndpointDataAvailable .rx = true ↔ s.env.rxq ≠ [] := by
  simp [State.isEndpointDataAvailable, State.held]

theorem pumpU0_keeps_inv (h : Inv s) : Inv (pumpU0 s) := h.takePass.setPumpPhase (ph := .run .u1) trivial

theorem pumpU1_phase_of_room (hroom : s.full = false) : (pumpU1 s).pump.phase = .run .u2 := by simp [pumpU1, hroom]

theorem pumpU1_keeps_inv (h : Inv s) : Inv (pumpU1 s) := by
  have hpump : PumpInv (pumpU1 s) := by
    unfold pumpU1
    cases hf : s.full with
    | false => exact ⟨rfl, hf⟩
    | true => trivial
  exact ⟨h.ok, h.ring, hpump, h.app, h.ctl, h.endpoint, h.port⟩

theorem pumpU2_of_available (hq : s.isEndpointDataAvailable .rx = true) : pumpU2 s = s.setPumpPhase (.run .u3) := by
  simp [pumpU2, hq]

theorem pumpU2_keeps_inv (h : Inv s) (hp : s.pump.phase = .run .u2) : Inv (pumpU2 s) := by
  obtain ⟨hnext, hroom⟩ := (pumpInv_u2 hp).mp h.pump
  unfold pumpU2
  split
  case isTrue hq => exact h.setPumpPhase (ph := .run .u3) ⟨hnext, hroom, isEndpointDataAvailable_rx_iff.mp hq⟩
  case isFalse hq =>
    have hempty : s.env.rxq = [] := not_not.mp (mt isEndpointDataAvailable_rx_iff.mpr hq)
    exact (h.releaseReceiveBuffer hempty).setPumpPhase (ph := .run .u6) trivial

theorem pumpU3_keeps_inv (h : Inv s) (hp : s.pump.phase = .run .u3) :
    Ensures (pumpU3 s) fun t => Inv t ∧ t.pump.phase = .run .u4 := fun t ht => by
  obtain ⟨hnext, hroom, hheld⟩ := (pumpInv_u3 hp).mp h.pump
  obtain ⟨b, rest, -, rfl⟩ := pumpU3_eq_next ht
  exact ⟨⟨h.ok, h.ring, ⟨hnext, hroom⟩, h.app, h.ctl, fun hr => absurd (h.endpoint hr) hheld, h.port⟩, rfl⟩

theorem pumpU4_keeps_inv (h : Inv s) (hp : s.pump.phase = .run .u4) :
    Ensures (pumpU4 s) fun t => Inv t ∧ t.pump.phase = .run .u5 := fun t ht => by
  obtain ⟨hnext, hroom⟩ := (pumpInv_u4 hp).mp h.pump
  obtain ⟨-, rfl⟩ := pumpU4_eq_next ht
  have hlabel := (pumpInv_u4 (s := s.store s.ring.head s.pump.byte) hp).mpr ⟨hnext, hroom⟩
  have hstore := h.store_head hlabel
  exact ⟨hstore.setPumpPhase (ph := .run .u5) ⟨hnext, hroom, Memory.get?_put_same ..⟩, rfl⟩

theorem pumpU5_keeps_inv (h : Inv s) (hp : s.pump.phase = .run .u5) : Inv (pumpU5 s) := by
  obtain ⟨hnext, hroom, hstored⟩ := (pumpInv_u5 hp).mp h.pump
  have hu1 : Inv (s.setPumpPhase (.run .u1)) := h.setPumpPhase trivial
  unfold pumpU5
  rw [hnext]
  exact hu1.setHead hroom (Option.isSome_of_eq_some hstored) trivial

theorem pumpU6_keeps_inv (h : Inv s) : Inv (pumpU6 s) := h.setPumpPhase (ph := .idle) trivial

theorem pumpMicro_keeps_inv (h : Inv s) : Ensures (pumpMicro s) Inv := by
  unfold pumpMicro
  split
  · exact .next h
  split
  next => exact .next (by split <;> [exact pumpU0_keeps_inv h; exact h])
  next => exact .next (pumpU1_keeps_inv h)
  next hp => exact .next (pumpU2_keeps_inv h hp)
  next hp => exact (pumpU3_keeps_inv h hp).mono fun _ => And.left
  next hp => exact (pumpU4_keeps_inv h hp).mono fun _ => And.left
  next hp => exact .next (pumpU5_keeps_inv h hp)
  next => exact .next (pumpU6_keeps_inv h)

/-- A turn of the loop is U1 to U5 one after another, and the last turn ends in U6. -/
theorem pumpLoop_keeps_inv (turns : Nat) : ∀ {s : State}, Inv s → Ensures (pumpLoop turns s) Inv := by
  induction turns with
  | zero => exact fun h => .next h
  | succ turns ih =>
    intro s h
    have hu1 := pumpU1_keeps_inv h
    unfold pumpLoop
    split_ifs with hfull hq
    · exact .next (pumpU6_keeps_inv hu1)
    · have hu2 := pumpU2_keeps_inv hu1 (pumpU1_phase_of_room (by simpa using hfull))
      have hphase : (pumpU2 (pumpU1 s)).pump.phase = .run .u3 := by
        rw [pumpU2_of_available (s := pumpU1 s) hq]
        rfl
      refine .andThen ((pumpU3_keeps_inv hu2 hphase).mono fun u3 hu3 => .andThen ?_)
      exact (pumpU4_keeps_inv hu3.1 hu3.2).mono fun u4 hu4 => ih (pumpU5_keeps_inv hu4.1 hu4.2)
    · exact .next (pumpU6_keeps_inv (pumpU2_keeps_inv hu1 (pumpU1_phase_of_room (by simpa using hfull))))

theorem execPump_keeps_inv (h : Inv s) : Ensures (execPump s) Inv := by
  unfold execPump
  split
  · exact pumpLoop_keeps_inv _ (pumpU0_keeps_inv h)
  · exact .next h

/-- RB_WRITE of port R, PUMP idle: the byte is stored behind `head`, and `head` advances over it. -/
theorem rbWriteByte_keeps_inv {b : Byte} {ok : Bool} (h : Inv s) (hp : s.pump.phase = .idle) (hw : rbWriteByte b s = .ok (ok, t)) :
    Inv t := by
  obtain ⟨-, -, rfl⟩ | ⟨hroom, -, -, rfl⟩ := rbWriteByte_eq_ok hw
  · exact h
  · have hstore : Inv (s.store s.ring.head b) := h.store_head (pumpInv_of_idle hp)
    have hstored : ((s.store s.ring.head b).ring.storage.get? s.ring.head).isSome = true :=
      Option.isSome_of_eq_some (Memory.get?_put_same ..)
    exact hstore.setHead hroom hstored (pumpInv_of_idle hp)

/-! ### CTRL (R150 to R168) -/

/-- The seven pulls of S3 that do not stop took the first seven bytes, in order. -/
theorem pullLc_eq_ok {d : LcBlock} (h : pullLc s = .ok (d, t)) :
    ∃ q, s.env.ep0q = d.toBytes ++ q ∧ t = s.setEnv { s.env with ep0q := q } := by
  match hq : s.env.ep0q with
  | d0 :: d1 :: d2 :: d3 :: d4 :: d5 :: d6 :: q =>
    rw [pullLc_of_seven hq] at h
    cases h
    exact ⟨q, rfl, rfl⟩
  | [] | [_] | [_, _] | [_, _, _] | [_, _, _, _] | [_, _, _, _, _] | [_, _, _, _, _, _] =>
    simp [pullLc, receiveByte, State.held, State.setEnv, hq, bind, Except.bind] at h

theorem ctlS3_eq_next (h : ctlS3 s = .next t) : ∃ d q, s.env.ep0q = d.toBytes ++ q ∧
    t = { s with ctl := { s.ctl with pulled := d, phase := .dispatch .s4 }, env := { s.env with ep0q := q } } := by
  obtain ⟨d, u, hd, ht⟩ := withResult_eq_next h
  obtain ⟨q, hq, rfl⟩ := pullLc_eq_ok hd
  cases ht
  exact ⟨d, q, hq, rfl⟩

theorem slcFinish_eq_next (h : slcFinish s = .next t) : ∃ d q, s.env.ep0q = d.toBytes ++ q ∧
    t = { s with
      line := s.line.decodeLC d
      ctl := { s.ctl with pulled := d, phase := .idle }
      env := { s.env with ep0q := q }
      ports := { s.ports with respU := s.ports.respU ++ [true] } } := by
  obtain ⟨u, hu, ht⟩ := andThen_eq_next h
  obtain ⟨d, q, hq, rfl⟩ := ctlS3_eq_next hu
  cases ht
  exact ⟨d, q, hq, rfl⟩

theorem ctlInv_waitFifo (hc : s.ctl.phase = .waitFifo) :
    CtlInv s ↔ firstLabel (decodeSetup s.params s.ctl.setup) = .s1 := by simp only [CtlInv, hc]

theorem ctlT2_keeps_inv (h : Inv s) : Inv (ctlT2 s) := by
  refine h.setCtlPhase ?_
  cases hi : decodeSetup s.params s.ctl.setup <;> simp [CtlInv, firstLabel, hi]

theorem ctlS2_keeps_inv (h : Inv s) (hc : s.ctl.phase = .waitFifo) : Inv (ctlS2 s) := by
  unfold ctlS2
  split
  case isTrue hdata =>
    exact h.setCtlPhase (ph := .dispatch .s3) ⟨(ctlInv_waitFifo hc).mp h.ctl, h.lcLen_le_slcThreshold.trans hdata⟩
  case isFalse => exact h

theorem slcResume_keeps_inv (h : Inv s) (hc : s.ctl.phase = .waitFifo) : Ensures (slcResume s) Inv := by
  unfold slcResume
  split
  · have hs2 := ctlS2_keeps_inv h hc
    intro t ht
    obtain ⟨d, q, -, rfl⟩ := slcFinish_eq_next ht
    exact ⟨hs2.ok, hs2.ring, hs2.pump, hs2.app, trivial, hs2.endpoint, hs2.port⟩
  · exact .next h

theorem ctlL1_keeps_inv (h : Inv s) (hsel : firstLabel (decodeSetup s.params s.ctl.setup) = .l1) (v : Byte) : Inv (ctlL1 v s) :=
  (h.setLineState v).setCtlPhase (ph := .dispatch .l2) hsel

@[simp] theorem applyHeuristic_params (s : State) : (applyHeuristic s).params = s.params := by
  unfold applyHeuristic
  split_ifs <;> rfl

@[simp] theorem applyHeuristic_ctl (s : State) : (applyHeuristic s).ctl = s.ctl := by
  unfold applyHeuristic
  split_ifs <;> rfl

theorem ctlL2_keeps_inv (h : Inv s) (hsel : firstLabel (decodeSetup s.params s.ctl.setup) = .l1) : Inv (ctlL2 s) := by
  refine h.applyHeuristic.setCtlPhase (ph := .dispatch .l3) ?_
  simpa only [CtlInv, State.setCtlPhase_params, State.setCtlPhase_ctl, applyHeuristic_params, applyHeuristic_ctl] using hsel

theorem ctlMicro_keeps_inv (h : Inv s) : Ensures (ctlMicro s) Inv := by
  have hlabel := h.ctl
  unfold CtlInv at hlabel
  unfold ctlMicro
  cases hc : s.ctl.phase with
  | idle => exact .next h
  | waitFifo => exact .next (ctlS2_keeps_inv h hc)
  | dispatch l =>
    rw [hc] at hlabel
    cases l with
    | t2 => exact .next (ctlT2_keeps_inv h)
    | g1 => exact .next ((h.sendControlResponse _).setCtlPhase (ph := .dispatch .g2) hlabel)
    | s1 => exact .next (h.setCtlPhase (ph := .waitFifo) hlabel)
    | s3 =>
      intro t ht
      obtain ⟨d, q, -, rfl⟩ := ctlS3_eq_next ht
      exact ⟨h.ok, h.ring, h.pump, h.app, hlabel.1, h.endpoint, h.port⟩
    | s4 => exact .next ((h.setLine _).setCtlPhase (ph := .dispatch .s5) hlabel)
    | l1 => exact .next (ctlL1_keeps_inv h hlabel _)
    | l2 => exact .next (ctlL2_keeps_inv h hlabel)
    | g2 | s5 | l3 | n1 => exact .next (h.ctlReturn _)

/-! ### APP (R180 to R206) -/

/-- APP idle, and what it leaves in place of its command's label is idle again. -/
theorem rbReadByte_keeps_inv {r : Option Byte} (h : Inv s) (ha : s.app = .idle) (hr : rbReadByte s = .ok (r, t)) : Inv t := by
  obtain ⟨-, -, rfl⟩ | ⟨hne, -, -, rfl⟩ := rbReadByte_eq_ok hr
  · exact h
  · exact h.setTail hne (appInv_of_idle ha)

theorem isOpenA1_keeps_inv (h : Inv s) : Inv (isOpenA1 s) := by
  unfold isOpenA1
  split
  · exact h.appReturn _
  · exact h.setApp (ph := .isOpenA2) trivial

theorem isOpenA3_keeps_inv (h : Inv s) (sample : Option Byte) : Inv (isOpenA3 sample s) :=
  h.setApp (ph := .isOpenA4 s.millis sample) (Nat.le_refl s.env.nowMs)

theorem isOpenA4_keeps_inv (h : Inv s) (t0 : Nat) (sample : Option Byte) : Inv (isOpenA4 t0 sample s) := by
  unfold isOpenA4
  split
  · exact h.appReturn _
  · exact h

theorem appA1_keeps_inv (h : Inv s) (i : Instr) : Ensures (appA1 i s) Inv := by
  cases i with
  | openPort | openCfg | closePort | avail | getWerr | appReserved => exact .next (h.appReturn _)
  | flush => exact .next (h.flushEndpoint.appReturn _)
  | clrWerr => exact .next (h.clearWriteError.appReturn _)
  | isOpen => exact .next (isOpenA1_keeps_inv h)
  | write payload => exact .withResult fun r u hu => .next ((h.sendBytes hu).setApp (ph := .writeA2 r) trivial)
  | peek =>
    refine .next ?_
    split
    case isTrue => exact h.appReturn _
    case isFalse hne => exact h.setApp (ph := .peekK2) (Bool.eq_false_iff.mpr hne)
  | read =>
    refine .next (h.setApp ?_)
    split
    case isTrue => trivial
    case isFalse hne => exact Bool.eq_false_iff.mpr hne
  | rbAvail | rbWrite | rbRead | rbPeek | rxReady | pump | setup | getLineCoding | setLineCoding | setControlLineState
  | ctrlUnhandled => exact .next h

theorem appNext_keeps_inv (h : Inv s) : Ensures (appNext s) Inv := by
  have hlabel := h.app
  unfold AppInv at hlabel
  unfold appNext
  cases ha : s.app with
  | idle => exact .next h
  | taken i => exact appA1_keeps_inv h i
  | peekK2 => exact .withTailByte (h.appReturn _)
  | readD2 =>
    rw [ha] at hlabel
    exact .withTailByte (h.setApp (ph := .readD3 _) ⟨hlabel, rfl⟩)
  | readD3 v =>
    rw [ha] at hlabel
    have hread : Inv (s.setApp (.readA2 (some v))) := h.setApp trivial
    exact .next (hread.setTail hlabel.1 trivial)
  | readA2 r =>
    cases r with
    | none => exact .next (h.appReturn _)
    | some v => exact .next (h.setApp (ph := .readA3 v) trivial)
  | readA3 v => exact .next (h.readTrigger.setApp (ph := .readA4 v) trivial)
  | readA4 v => exact .next (h.appReturn _)
  | writeA2 r => exact .next (h.writeResult r)
  | isOpenA2 => exact .next (h.sampleEarly.setApp (ph := .isOpenA3 _) trivial)
  | isOpenA3 sample => exact .next (isOpenA3_keeps_inv h sample)
  | isOpenA4 t0 sample => exact .next (isOpenA4_keeps_inv h t0 sample)

/-- A request on port A is a command of port A (R91). -/
theorem decodeApp_format {p : Params} {r : AppRequest} {i : Instr} (h : decodeApp p r = .ok i) : i.format = .app := by
  unfold decodeApp at h
  split at h
  case h_7 =>
    split at h
    · cases h; rfl
    · cases h
  all_goals cases h; rfl

theorem decodeUsb_eq_ok {e : UsbEvent} {i : Instr} (h : decodeUsb e = .ok i) : i = .rxReady ∨ i = .setup e.uSetup := by
  unfold decodeUsb at h
  split at h
  case h_1 | h_4 => cases h
  case h_2 => cases h; exact .inl rfl
  case h_3 => cases h; exact .inr rfl

theorem decodeRb_format (r : RbRequest) : (decodeRb r).format = .rb := by
  unfold decodeRb
  split <;> rfl

theorem appMicro_keeps_inv (h : Inv s) : Ensures (appMicro s) Inv := by
  unfold appMicro
  split_ifs
  · exact .next h
  · refine .takeRequest h fun r rest i _ hi => .next ((h.setPortA rest).setApp (ph := .taken i) ?_)
    show isCommand i = true
    simp [isCommand, decodeApp_format hi]
  · exact appNext_keeps_inv h

/-! ### Whole operations (R96) -/

theorem execSetup_keeps_inv (h : Inv s) (packet : SetupPacket) : Ensures (execSetup packet s) Inv := by
  unfold execSetup
  split
  · exact .next (h.ctlT1 packet)
  · exact .next (h.setupWaits packet)

theorem execRead_keeps_inv (h : Inv s) : Ensures (execRead s) Inv :=
  .takeApp (h.setPortA _) fun hr => .withResult fun r u hu => by
    have hread := rbReadByte_keeps_inv h (appReady_iff.mp hr).1 hu
    cases r with
    | none => exact .next (hread.appReturn _)
    | some v => exact .next (hread.readTrigger.appReturn _)

theorem execIsOpen_keeps_inv (h : Inv s) : Ensures (execIsOpen s) Inv :=
  .takeApp (h.setPortA _) fun _ => .next (by
    split
    · exact h.appReturn _
    · exact isOpenA3_keeps_inv h.sampleEarly _)

/-- Every operation keeps the invariant; SET_LINE_CODING, which may stall, where it is the request in CTRL's hand. -/
theorem exec_keeps_inv {i : Instr} (h : Inv s) (hand : i.format = .setup → i = decodeSetup s.params s.ctl.setup) :
    Ensures (exec i s) Inv := by
  unfold exec
  cases i with
  | rbAvail => exact .takeRb (h.setPortR _) fun _ => .next (h.respondR _)
  | rbWrite b =>
    exact .takeRb (h.setPortR _) fun hr => .withResult fun ok u hu =>
      .next ((rbWriteByte_keeps_inv h (pumpReady_iff.mp hr).1 hu).respondR _)
  | rbRead =>
    exact .takeRb (h.setPortR _) fun hr => .withResult fun r u hu =>
      .next ((rbReadByte_keeps_inv h (appReady_iff.mp hr).1 hu).respondR _)
  | rbPeek =>
    exact .takeRb (h.setPortR _) fun _ => .withResult fun r u hu => .next (by
      obtain ⟨rfl, -⟩ := rbPeekByte_eq_ok hu
      exact h.respondR _)
  | rxReady => exact .next h.askPass
  | pump => exact execPump_keeps_inv h
  | setup packet => exact execSetup_keeps_inv h packet
  | getLineCoding => exact .takeCtl (h.setupWaits _) fun _ => .next ((h.sendControlResponse _).ctlReturn true)
  | setLineCoding =>
    have hsel := congrArg firstLabel (hand rfl).symm
    exact .takeCtl (h.setupWaits _) fun _ => slcResume_keeps_inv (h.setCtlPhase (ph := .waitFifo) hsel) rfl
  | setControlLineState v =>
    have hsel := congrArg firstLabel (hand rfl).symm
    exact .takeCtl (h.setupWaits _) fun _ => .next ((ctlL2_keeps_inv (ctlL1_keeps_inv h hsel (lowByte v)) hsel).ctlReturn true)
  | ctrlUnhandled => exact .takeCtl (h.setupWaits _) fun _ => .next (h.ctlReturn false)
  | openPort | openCfg | closePort | avail | getWerr | appReserved =>
    exact .takeApp (h.setPortA _) fun _ => .next (h.appReturn _)
  | peek =>
    exact .takeApp (h.setPortA _) fun _ => .withResult fun r u hu => .next (by
      obtain ⟨rfl, -⟩ := rbPeekByte_eq_ok hu
      exact h.appReturn _)
  | read => exact execRead_keeps_inv h
  | write => exact .takeApp (h.setPortA _) fun _ => .withResult fun r u hu => .next ((h.sendBytes hu).writeResult r)
  | flush => exact .takeApp (h.setPortA _) fun _ => .next (h.flushEndpoint.appReturn _)
  | isOpen => exact execIsOpen_keeps_inv h
  | clrWerr => exact .takeApp (h.setPortA _) fun _ => .next (h.clearWriteError.appReturn _)

/-! ### Picks and steps (R56) -/

theorem exec_other_keeps_inv {i : Instr} (h : Inv s) (hf : i.format ≠ .setup) : Ensures (exec i s) Inv :=
  exec_keeps_inv h fun hs => absurd hs hf

theorem runAppOp_keeps_inv (h : Inv s) : Ensures (runAppOp s) Inv := by
  unfold runAppOp
  split
  · refine .takeRequest h fun r rest i _ hi => exec_other_keeps_inv (h.setPortA rest) ?_
    rw [decodeApp_format hi]
    decide
  · exact .next h

theorem runPumpOp_keeps_inv (h : Inv s) : Ensures (runPumpOp s) Inv := by
  unfold runPumpOp decode
  cases s.pump.req with
  | true =>
    split
    · exact execPump_keeps_inv h
    · exact .next h
  | false => split <;> exact .next h

theorem runCtrlOp_keeps_inv (h : Inv s) : Ensures (runCtrlOp s) Inv := by
  unfold runCtrlOp
  split_ifs with hready hstall
  · exact exec_keeps_inv h fun _ => rfl
  · exact slcResume_keeps_inv h (stall_iff.mp hstall)
  · exact .next h

theorem runUsbOp_keeps_inv (h : Inv s) : Ensures (runUsbOp s) Inv := by
  unfold runUsbOp
  split
  next => exact .next h
  next e rest hfirst =>
    obtain ⟨pre, post, hport, rfl, -, -⟩ := firstTakeable_eq_some hfirst
    have hrest : Inv (s.setPortU (pre ++ post)) := h.setPortU fun x hx => .inl (by
      rw [hport]
      exact List.mem_append.mpr ((List.mem_append.mp hx).imp_right (List.mem_cons_of_mem e)))
    split
    next i hi =>
      obtain rfl | rfl := decodeUsb_eq_ok hi
      · exact .next hrest.askPass
      · exact execSetup_keeps_inv hrest e.uSetup
    next => exact .next hrest

theorem runRbOp_keeps_inv (h : Inv s) : Ensures (runRbOp s) Inv := by
  unfold runRbOp
  split
  next => exact .next h
  next r rest _ =>
    split
    · exact exec_other_keeps_inv (h.setPortR rest) (by rw [decodeRb_format]; decide)
    · exact .next h

theorem presentUsb_keeps_inv (h : Inv s) (e : UsbEvent) : Inv (presentUsb e s) := by
  obtain ⟨-, heq⟩ | ⟨hne, heq⟩ := presentUsb_cases e s
  · exact heq ▸ h.arriveNext
  · rw [heq]
    exact h.setPortU fun x hx => (List.mem_append.mp hx).imp_right fun hx => by rwa [List.mem_singleton.mp hx]

theorem runPick_keeps_inv (h : Inv s) (p : Pick) : Ensures (runPick p s) Inv := by
  cases p with
  | appOp => exact runAppOp_keeps_inv h
  | appMicro => exact appMicro_keeps_inv h
  | pumpOp => exact runPumpOp_keeps_inv h
  | pumpMicro => exact pumpMicro_keeps_inv h
  | ctrlOp => exact runCtrlOp_keeps_inv h
  | ctrlMicro => exact ctlMicro_keeps_inv h
  | usbOp => exact runUsbOp_keeps_inv h
  | rbOp => exact runRbOp_keeps_inv h
  | presentApp => exact .next (h.setPortA _)
  | presentUsb e => exact .next (presentUsb_keeps_inv h e)
  | presentRb => exact .next (h.setPortR _)
  | packet => exact .next h.arriveNext
  | pkt bs => exact .next (h.arrive bs)
  | data bs => exact .next (h.dataArrive bs)
  | tick => exact .next h.tick
  | fire => exact .next h.fire
  | rst => exact .next h.resetBlock

/-- Settles O56: a step is a pick, and every pick keeps the invariant, the micro-steps by what their label stands for. -/
theorem stepKeepsInv : Obligations.StepKeepsInv := fun _ _ h hstep =>
  runPick_keeps_inv h.nextPick _ _ (step_eq_next hstep).2

end Sys2Proof.Machine
end

section
/-!
Proofs of the statements of 10_state.md, fourth part: which of the owned fields (R39) each operation, each micro-step and each pick of the
schedule writes.
-/

namespace Sys2Proof.Machine

variable {s t u : State}

/-! ### Footprints -/

/-- The fields that R39 gives an owner, and the clock; `buffer` is `head` with `storage`. -/
inductive OwnedField where
  | buffer | tail | line | writeError | nowMs

/-- The step from `s` to `t` changes no owned field outside `w`, and no parameter. -/
structure WritesOnly (w : List OwnedField) (s t : State) : Prop where
  params : t.params = s.params
  buffer : .buffer ∉ w → t.ring.head = s.ring.head ∧ t.ring.storage = s.ring.storage
  tail : .tail ∉ w → t.ring.tail = s.ring.tail
  line : .line ∉ w → t.line = s.line
  writeError : .writeError ∉ w → t.writeError = s.writeError
  nowMs : .nowMs ∉ w → t.env.nowMs = s.env.nowMs

/-- The owned fields, with the parameters. -/
def State.owned (s : State) : Params × Ring × LineInfo × Bool × Nat := (s.params, s.ring, s.line, s.writeError, s.env.nowMs)

namespace WritesOnly

variable {w w' : List OwnedField}

/-- A step that leaves every owned field writes none. -/
theorem of_owned (h : t.owned = s.owned) : WritesOnly w s t := by
  obtain ⟨hparams, hring, hline, hwerr, hnow⟩ : t.params = s.params ∧ t.ring = s.ring ∧ t.line = s.line ∧
    t.writeError = s.writeError ∧ t.env.nowMs = s.env.nowMs := by simpa only [State.owned, Prod.mk.injEq] using h
  exact ⟨hparams, fun _ => by simp only [hring, and_self], fun _ => by rw [hring], fun _ => hline, fun _ => hwerr, fun _ => hnow⟩

theorem trans (h : WritesOnly w s t) (h' : WritesOnly w t u) : WritesOnly w s u where
  params := h'.params.trans h.params
  buffer hw := ⟨(h'.buffer hw).1.trans (h.buffer hw).1, (h'.buffer hw).2.trans (h.buffer hw).2⟩
  tail hw := (h'.tail hw).trans (h.tail hw)
  line hw := (h'.line hw).trans (h.line hw)
  writeError hw := (h'.writeError hw).trans (h.writeError hw)
  nowMs hw := (h'.nowMs hw).trans (h.nowMs hw)

theorem mono (h : WritesOnly w s t) (hw : w ⊆ w') : WritesOnly w' s t :=
  ⟨h.params, fun hn => h.buffer (mt (@hw _) hn), fun hn => h.tail (mt (@hw _) hn), fun hn => h.line (mt (@hw _) hn),
    fun hn => h.writeError (mt (@hw _) hn), fun hn => h.nowMs (mt (@hw _) hn)⟩

/-! A field that changed is one that may be written. -/

theorem buffer_mem (h : WritesOnly w s t) (hne : t.ring.head ≠ s.ring.head ∨ t.ring.storage ≠ s.ring.storage) : .buffer ∈ w :=
  by_contra fun hw => hne.elim (absurd (h.buffer hw).1) (absurd (h.buffer hw).2)

theorem tail_mem (h : WritesOnly w s t) (hne : t.ring.tail ≠ s.ring.tail) : .tail ∈ w := by_contra fun hw => hne (h.tail hw)

theorem line_mem (h : WritesOnly w s t) (hne : t.line ≠ s.line) : .line ∈ w := by_contra fun hw => hne (h.line hw)

theorem writeError_mem (h : WritesOnly w s t) (hne : t.writeError ≠ s.writeError) : .writeError ∈ w :=
  by_contra fun hw => hne (h.writeError hw)

theorem nowMs_mem (h : WritesOnly w s t) (hne : t.env.nowMs ≠ s.env.nowMs) : .nowMs ∈ w := by_contra fun hw => hne (h.nowMs hw)

/-! ### Steps that write nothing, and steps that write one field -/

/-- What follows leaves every owned field. -/
theorem keeps (h : WritesOnly w s t) (ho : u.owned = t.owned) : WritesOnly w s u := h.trans (of_owned ho)

/-- What went before left every owned field. -/
theorem after (ho : t.owned = s.owned) (h : WritesOnly w t u) : WritesOnly w s u := (of_owned ho).trans h

theorem store (s : State) (a : Nat) (b : Byte) : WritesOnly [.buffer] s (s.store a b) :=
  ⟨rfl, fun hw => absurd (List.mem_singleton_self _) hw, fun _ => rfl, fun _ => rfl, fun _ => rfl, fun _ => rfl⟩

theorem setHead (s : State) (n : Nat) : WritesOnly [.buffer] s (s.setHead n) :=
  ⟨rfl, fun hw => absurd (List.mem_singleton_self _) hw, fun _ => rfl, fun _ => rfl, fun _ => rfl, fun _ => rfl⟩

theorem setTail (s : State) (n : Nat) : WritesOnly [.tail] s (s.setTail n) :=
  ⟨rfl, fun _ => ⟨rfl, rfl⟩, fun hw => absurd (List.mem_singleton_self _) hw, fun _ => rfl, fun _ => rfl, fun _ => rfl⟩

theorem setLine (s : State) (l : LineInfo) : WritesOnly [.line] s (s.setLine l) :=
  ⟨rfl, fun _ => ⟨rfl, rfl⟩, fun _ => rfl, fun hw => absurd (List.mem_singleton_self _) hw, fun _ => rfl, fun _ => rfl⟩

theorem setLineState (s : State) (v : Byte) : WritesOnly [.line] s (s.setLineState v) := setLine s { s.line with lineState := v }

theorem markWriteError (s : State) : WritesOnly [.writeError] s s.markWriteError :=
  ⟨rfl, fun _ => ⟨rfl, rfl⟩, fun _ => rfl, fun _ => rfl, fun hw => absurd (List.mem_singleton_self _) hw, fun _ => rfl⟩

theorem clearWriteError (s : State) : WritesOnly [.writeError] s s.clearWriteError :=
  ⟨rfl, fun _ => ⟨rfl, rfl⟩, fun _ => rfl, fun _ => rfl, fun hw => absurd (List.mem_singleton_self _) hw, fun _ => rfl⟩

theorem tick (s : State) : WritesOnly [.nowMs] s (tick s) :=
  ⟨rfl, fun _ => ⟨rfl, rfl⟩, fun _ => rfl, fun _ => rfl, fun _ => rfl, fun hw => absurd (List.mem_singleton_self _) hw⟩

end WritesOnly

/-! ### Shared operations that write no owned field -/

theorem applyHeuristic_owned (s : State) : (applyHeuristic s).owned = s.owned := by
  unfold applyHeuristic
  split_ifs <;> rfl

theorem readTrigger_owned (s : State) : (readTrigger s).owned = s.owned := by
  unfold readTrigger
  split <;> rfl

theorem sampleEarly_owned (s : State) : (sampleEarly s).2.owned = s.owned := by
  unfold sampleEarly drawEarly
  split <;> rfl

theorem drawPacket_owned (s : State) : (drawPacket s).2.owned = s.owned := by
  unfold drawPacket
  split <;> rfl

theorem arrive_owned (p : Bytes) (s : State) : (arrive p s).owned = s.owned := by
  unfold arrive
  split <;> rfl

theorem arriveNext_owned (s : State) : (arriveNext s).owned = s.owned := by
  unfold arriveNext
  split
  · exact (arrive_owned _ _).trans (drawPacket_owned s)
  · rfl

theorem presentUsb_owned (e : UsbEvent) (s : State) : (presentUsb e s).owned = s.owned := by
  obtain ⟨-, heq⟩ | ⟨-, heq⟩ := presentUsb_cases e s
  · rw [heq, arriveNext_owned]
  · rw [heq]; rfl

theorem sendBytes_owned {payload : Bytes} {r : SendAnswer} (h : sendBytes payload s = .ok (r, t)) : t.owned = s.owned := by
  obtain ⟨u, hu, rfl⟩ := sendBytes_eq_ok h
  obtain ⟨-, ⟨-, -, rfl⟩ | ⟨rest, -, rfl⟩⟩ := drawSend_eq_ok hu <;> rfl

theorem execSetup_owned (packet : SetupPacket) (s : State) : Ensures (execSetup packet s) fun t => t.owned = s.owned := by
  unfold execSetup
  split <;> exact .next rfl

theorem isOpenA1_owned (s : State) : (isOpenA1 s).owned = s.owned := by
  unfold isOpenA1
  split <;> rfl

theorem isOpenA4_owned (t0 : Nat) (sample : Option Byte) (s : State) : (isOpenA4 t0 sample s).owned = s.owned := by
  unfold isOpenA4
  split <;> rfl

/-! ### PUMP -/

theorem pumpU2_owned (s : State) : (pumpU2 s).owned = s.owned := by
  unfold pumpU2
  split <;> rfl

theorem pumpU3_owned (s : State) : Ensures (pumpU3 s) fun t => t.owned = s.owned := fun t ht => by
  obtain ⟨b, rest, -, rfl⟩ := pumpU3_eq_next ht
  rfl

theorem pumpU4_writesOnly (s : State) : Ensures (pumpU4 s) (WritesOnly [.buffer] s) := fun t ht => by
  obtain ⟨-, rfl⟩ := pumpU4_eq_next ht
  exact (WritesOnly.store s s.ring.head s.pump.byte).keeps rfl

theorem pumpU5_writesOnly (s : State) : WritesOnly [.buffer] s (pumpU5 s) := (WritesOnly.setHead s s.pump.nextIndex).keeps rfl

theorem pumpMicro_writesOnly (s : State) : Ensures (pumpMicro s) (WritesOnly [.buffer] s) := by
  unfold pumpMicro
  split
  · exact .next (.of_owned rfl)
  split
  next => exact .next (by split <;> exact .of_owned rfl)
  next => exact .next (.of_owned rfl)
  next => exact .next (.of_owned (pumpU2_owned s))
  next => exact (pumpU3_owned s).mono fun _ => .of_owned
  next => exact pumpU4_writesOnly s
  next => exact .next (pumpU5_writesOnly s)
  next => exact .next (.of_owned rfl)

theorem pumpLoop_writesOnly (turns : Nat) : ∀ s : State, Ensures (pumpLoop turns s) (WritesOnly [.buffer] s) := by
  induction turns with
  | zero => exact fun s => .next (.of_owned rfl)
  | succ turns ih =>
    intro s
    have hu2 : (pumpU2 (pumpU1 s)).owned = s.owned := pumpU2_owned (pumpU1 s)
    unfold pumpLoop
    split_ifs
    · exact .next (.of_owned rfl)
    · refine .andThen ((pumpU3_owned _).mono fun u3 hu3 => .andThen ((pumpU4_writesOnly u3).mono fun u4 hu4 => ?_))
      have hturn : WritesOnly [.buffer] s (pumpU5 u4) :=
        .after (hu3.trans hu2) (hu4.trans (pumpU5_writesOnly u4))
      exact (ih (pumpU5 u4)).mono fun _ => hturn.trans
    · exact .next (.of_owned hu2)

theorem execPump_writesOnly (s : State) : Ensures (execPump s) (WritesOnly [.buffer] s) := by
  unfold execPump
  split
  · exact (pumpLoop_writesOnly _ (pumpU0 s)).mono fun _ => .after rfl
  · exact .next (.of_owned rfl)

/-! ### CTRL -/

theorem ctlS2_owned (s : State) : (ctlS2 s).owned = s.owned := by
  unfold ctlS2
  split <;> rfl

theorem slcResume_writesOnly (s : State) : Ensures (slcResume s) (WritesOnly [.line] s) := by
  unfold slcResume
  split
  · intro t ht
    obtain ⟨d, q, -, rfl⟩ := slcFinish_eq_next ht
    exact (WritesOnly.after (ctlS2_owned s) (.setLine _ _)).keeps rfl
  · exact .next (.of_owned rfl)

theorem ctlMicro_writesOnly (s : State) : Ensures (ctlMicro s) (WritesOnly [.line] s) := by
  unfold ctlMicro
  cases s.ctl.phase with
  | idle => exact .next (.of_owned rfl)
  | waitFifo => exact .next (.of_owned (ctlS2_owned s))
  | dispatch l =>
    cases l with
    | t2 | g1 | g2 | s1 | s5 | l3 | n1 => exact .next (.of_owned rfl)
    | s3 =>
      intro t ht
      obtain ⟨d, q, -, rfl⟩ := ctlS3_eq_next ht
      exact .of_owned rfl
    | s4 => exact .next ((WritesOnly.setLine s _).keeps rfl)
    | l1 => exact .next ((WritesOnly.setLineState s _).keeps rfl)
    | l2 => exact .next (.of_owned (applyHeuristic_owned s))

/-! ### APP -/

theorem rbReadByte_writesOnly {r : Option Byte} (h : rbReadByte s = .ok (r, t)) : WritesOnly [.tail] s t := by
  obtain ⟨-, -, rfl⟩ | ⟨-, -, -, rfl⟩ := rbReadByte_eq_ok h
  · exact .of_owned rfl
  · exact .setTail s _

theorem writeResult_writesOnly (r : SendAnswer) (s : State) : WritesOnly [.writeError] s (writeResult r s) := by
  unfold writeResult
  split
  · exact (WritesOnly.markWriteError s).keeps rfl
  · exact .of_owned rfl

theorem execRead_writesOnly (s : State) : Ensures (execRead s) (WritesOnly [.tail] s) :=
  .takeApp (.of_owned rfl) fun _ => .withResult fun r u hu => by
    cases r with
    | none => exact .next ((rbReadByte_writesOnly hu).keeps rfl)
    | some v => exact .next ((rbReadByte_writesOnly hu).keeps (readTrigger_owned u))

theorem execIsOpen_owned (s : State) : Ensures (execIsOpen s) fun t => t.owned = s.owned :=
  .takeApp rfl fun _ => .next (by
    split
    · rfl
    · exact sampleEarly_owned s)

/-- What the micro-step at a label of APP writes. -/
def labelWrites : AppPhase → List OwnedField
  | .taken .clrWerr => [.writeError]
  | .writeA2 _ => [.writeError]
  | .readD3 _ => [.tail]
  | _ => []

theorem appA1_writesOnly (i : Instr) (s : State) : Ensures (appA1 i s) (WritesOnly (labelWrites (.taken i)) s) := by
  cases i with
  | openPort | openCfg | closePort | avail | getWerr | appReserved | flush | read => exact .next (.of_owned rfl)
  | clrWerr => exact .next ((WritesOnly.clearWriteError s).keeps rfl)
  | isOpen => exact .next (.of_owned (isOpenA1_owned s))
  | write => exact .withResult fun r u hu => .next ((WritesOnly.of_owned (sendBytes_owned hu)).keeps rfl)
  | peek => exact .next (.of_owned (by split <;> rfl))
  | rbAvail | rbWrite | rbRead | rbPeek | rxReady | pump | setup | getLineCoding | setLineCoding | setControlLineState
  | ctrlUnhandled => exact .next (.of_owned rfl)

theorem appNext_writesOnly (s : State) : Ensures (appNext s) (WritesOnly (labelWrites s.app) s) := by
  unfold appNext
  cases s.app with
  | idle => exact .next (.of_owned rfl)
  | taken i => exact appA1_writesOnly i s
  | peekK2 | readD2 => exact .withTailByte (.of_owned rfl)
  | readD3 v => exact .next ((WritesOnly.setTail s _).keeps rfl)
  | readA2 r => cases r <;> exact .next (.of_owned rfl)
  | readA3 v => exact .next (.of_owned (readTrigger_owned s))
  | writeA2 r => exact .next (writeResult_writesOnly r s)
  | isOpenA2 => exact .next (.of_owned (sampleEarly_owned s))
  | readA4 | isOpenA3 => exact .next (.of_owned rfl)
  | isOpenA4 t0 sample => exact .next (.of_owned (isOpenA4_owned t0 sample s))

theorem appMicro_writesOnly (s : State) : Ensures (appMicro s) (WritesOnly (labelWrites s.app) s) := by
  unfold appMicro
  split_ifs
  · exact .next (.of_owned rfl)
  · exact .takeRequest (.of_owned rfl) fun _ _ _ _ _ => .next (.of_owned rfl)
  · exact appNext_writesOnly s

/-! ### Whole operations -/

/-- What an operation run whole writes. -/
def opWrites : Instr → List OwnedField
  | .rbWrite _ => [.buffer]
  | .pump => [.buffer]
  | .rbRead => [.tail]
  | .read => [.tail]
  | .setLineCoding _ _ _ => [.line]
  | .setControlLineState _ _ _ => [.line]
  | .write _ => [.writeError]
  | .clrWerr => [.writeError]
  | .rbAvail | .rbPeek | .rxReady | .setup _ | .getLineCoding _ _ _ | .ctrlUnhandled _ | .openPort | .openCfg _ _ | .closePort
  | .avail | .peek | .flush | .isOpen | .getWerr | .appReserved _ => []

theorem exec_writesOnly (i : Instr) (s : State) : Ensures (exec i s) (WritesOnly (opWrites i) s) := by
  unfold exec
  cases i with
  | rbAvail => exact .takeRb (.of_owned rfl) fun _ => .next (.of_owned rfl)
  | rbWrite b =>
    refine .takeRb (.of_owned rfl) fun _ => .withResult fun ok u hu => .next ?_
    obtain ⟨-, -, rfl⟩ | ⟨-, -, -, rfl⟩ := rbWriteByte_eq_ok hu
    · exact .of_owned rfl
    · exact ((WritesOnly.store s s.ring.head b).trans (.setHead _ _)).keeps rfl
  | rbRead => exact .takeRb (.of_owned rfl) fun _ => .withResult fun r u hu => .next ((rbReadByte_writesOnly hu).keeps rfl)
  | rbPeek =>
    refine .takeRb (.of_owned rfl) fun _ => .withResult fun r u hu => .next ?_
    obtain ⟨rfl, -⟩ := rbPeekByte_eq_ok hu
    exact .of_owned rfl
  | rxReady => exact .next (.of_owned rfl)
  | pump => exact execPump_writesOnly s
  | setup packet => exact (execSetup_owned packet s).mono fun _ => .of_owned
  | getLineCoding | ctrlUnhandled => exact .takeCtl (.of_owned rfl) fun _ => .next (.of_owned rfl)
  | setLineCoding =>
    exact .takeCtl (.of_owned rfl) fun _ => (slcResume_writesOnly (ctlS1 s)).mono fun _ => .after rfl
  | setControlLineState v =>
    exact .takeCtl (.of_owned rfl) fun _ =>
      .next ((WritesOnly.setLineState s (lowByte v)).keeps (applyHeuristic_owned (ctlL1 (lowByte v) s)))
  | openPort | openCfg | closePort | avail | flush | getWerr | appReserved =>
    exact .takeApp (.of_owned rfl) fun _ => .next (.of_owned rfl)
  | peek =>
    refine .takeApp (.of_owned rfl) fun _ => .withResult fun r u hu => .next ?_
    obtain ⟨rfl, -⟩ := rbPeekByte_eq_ok hu
    exact .of_owned rfl
  | read => exact execRead_writesOnly s
  | write =>
    exact .takeApp (.of_owned rfl) fun _ => .withResult fun r u hu =>
      .next (.after (sendBytes_owned hu) (writeResult_writesOnly r u))
  | isOpen => exact (execIsOpen_owned s).mono fun _ => .of_owned
  | clrWerr => exact .takeApp (.of_owned rfl) fun _ => .next ((WritesOnly.clearWriteError s).keeps rfl)

/-- A command of port A writes `tail` or `writeError` (R39). -/
theorem opWrites_subset_of_command {i : Instr} (h : i.format = .app) : opWrites i ⊆ [.tail, .writeError] := by
  cases i <;> simp_all [opWrites, Instr.format]

theorem opWrites_subset_of_request {i : Instr} (h : i.format = .setup) : opWrites i ⊆ [.line] := by
  cases i <;> simp_all [opWrites, Instr.format]

theorem decodeSetup_format (p : Params) (w : SetupPacket) : (decodeSetup p w).format = .setup := by
  unfold decodeSetup
  split_ifs <;> rfl

/-! ### Picks and steps -/

/-- What a pick other than a reset writes, `ws` standing on port R. -/
def pickWrites (ws : List RbRequest) : Pick → List OwnedField
  | .appOp | .appMicro => [.tail, .writeError]
  | .pumpOp | .pumpMicro => [.buffer]
  | .ctrlOp | .ctrlMicro => [.line]
  | .rbOp => ws.head?.elim [] fun r => opWrites (decodeRb r)
  | .tick => [.nowMs]
  | _ => []

theorem labelWrites_subset (ph : AppPhase) : labelWrites ph ⊆ [.tail, .writeError] := by
  unfold labelWrites
  split <;> simp

theorem runAppOp_writesOnly (s : State) : Ensures (runAppOp s) (WritesOnly [.tail, .writeError] s) := by
  unfold runAppOp
  split
  · refine .takeRequest (.of_owned rfl) fun r rest i _ hi => (exec_writesOnly i (s.setPortA rest)).mono fun t ht => ?_
    exact .after (t := s.setPortA rest) rfl (ht.mono (opWrites_subset_of_command (decodeApp_format hi)))
  · exact .next (.of_owned rfl)

theorem runPumpOp_writesOnly (s : State) : Ensures (runPumpOp s) (WritesOnly [.buffer] s) := by
  unfold runPumpOp decode
  cases s.pump.req with
  | true =>
    split
    · exact execPump_writesOnly s
    · exact .next (.of_owned rfl)
  | false => split <;> exact .next (.of_owned rfl)

theorem runCtrlOp_writesOnly (s : State) : Ensures (runCtrlOp s) (WritesOnly [.line] s) := by
  unfold runCtrlOp
  split_ifs
  · exact (exec_writesOnly _ s).mono fun t ht => ht.mono (opWrites_subset_of_request (decodeSetup_format ..))
  · exact slcResume_writesOnly s
  · exact .next (.of_owned rfl)

theorem runUsbOp_owned (s : State) : Ensures (runUsbOp s) fun t => t.owned = s.owned := by
  unfold runUsbOp
  split
  next => exact .next rfl
  next e rest _ =>
    split
    next i hi =>
      obtain rfl | rfl := decodeUsb_eq_ok hi
      · exact .next rfl
      · exact execSetup_owned e.uSetup (s.setPortU rest)
    next => exact .next rfl

theorem runRbOp_writesOnly (s : State) : Ensures (runRbOp s) (WritesOnly (pickWrites s.ports.portR .rbOp) s) := by
  unfold runRbOp
  split
  next => exact .next (.of_owned rfl)
  next r rest hport =>
    rw [hport]
    split
    · exact (exec_writesOnly (decodeRb r) (s.setPortR rest)).mono fun _ => .after rfl
    · exact .next (.of_owned rfl)

theorem runPick_writesOnly {p : Pick} (hp : p ∉ [Pick.rst, .fire]) (s : State) :
    Ensures (runPick p s) (WritesOnly (pickWrites s.ports.portR p) s) := by
  cases p with
  | appOp => exact runAppOp_writesOnly s
  | appMicro => exact (appMicro_writesOnly s).mono fun t ht => ht.mono (labelWrites_subset s.app)
  | pumpOp => exact runPumpOp_writesOnly s
  | pumpMicro => exact pumpMicro_writesOnly s
  | ctrlOp => exact runCtrlOp_writesOnly s
  | ctrlMicro => exact ctlMicro_writesOnly s
  | usbOp => exact (runUsbOp_owned s).mono fun _ => .of_owned
  | rbOp => exact runRbOp_writesOnly s
  | presentApp | presentRb | data => exact .next (.of_owned rfl)
  | presentUsb e => exact .next (.of_owned (presentUsb_owned e s))
  | packet => exact .next (.of_owned (arriveNext_owned s))
  | pkt bs => exact .next (.of_owned (arrive_owned bs s))
  | tick => exact .next (.tick s)
  | fire | rst => simp at hp

theorem nextPick_owned (s : State) : (nextPick s).2.owned = s.owned := by
  obtain ⟨d, hd, -⟩ := nextPick_frame s
  rw [hd]
  rfl

theorem nextPick_ports (s : State) : (nextPick s).2.ports = s.ports := by
  obtain ⟨d, hd, -⟩ := nextPick_frame s
  rw [hd]

theorem step_writesOnly (h : step s = .next t) (hp : (nextPick s).1 ∉ [Pick.rst, .fire]) :
    WritesOnly (pickWrites s.ports.portR (nextPick s).1) s t := by
  have hrun := runPick_writesOnly hp _ _ (step_eq_next h).2
  rw [nextPick_ports] at hrun
  exact .after (nextPick_owned s) hrun

theorem fire_params (s : State) : (fire s).params = s.params := by
  unfold fire
  split <;> rfl

/-- No step, not even a reset, changes the parameters. -/
theorem step_params (h : step s = .next t) : t.params = s.params := by
  by_cases hp : (nextPick s).1 ∈ [Pick.rst, .fire]
  · have hs : (nextPick s).2.params = s.params := congrArg Prod.fst (nextPick_owned s)
    have hrun := (step_eq_next h).2
    obtain heq | heq : (nextPick s).1 = .rst ∨ (nextPick s).1 = .fire := by simpa using hp
    · rw [heq] at hrun
      cases hrun
      exact hs
    · rw [heq] at hrun
      cases hrun
      exact (fire_params _).trans hs
  · exact (step_writesOnly h hp).params

theorem decodeRb_eq_ite (r : RbRequest) : decodeRb r =
    if r.rbOp = 0b00#2 then .rbAvail else if r.rbOp = 0b01#2 then .rbWrite r.rbData
    else if r.rbOp = 0b10#2 then .rbRead else .rbPeek := by
  obtain ⟨op, data⟩ := r
  obtain rfl | rfl | rfl | rfl : op = 0b00#2 ∨ op = 0b01#2 ∨ op = 0b10#2 ∨ op = 0b11#2 := by
    revert op
    decide
  all_goals rfl

section
variable {p : Pick} {ws : List RbRequest}

/-- A field that a primitive of port R writes names the primitive. -/
theorem mem_rbOp_writes {f : OwnedField} (h : f ∈ pickWrites ws .rbOp) : ∃ r rest, ws = r :: rest ∧
    (f = .buffer ∧ r.rbOp = 0b01#2 ∨ f = .tail ∧ r.rbOp = 0b10#2) := by
  cases ws with
  | nil => cases h
  | cons r rest =>
    refine ⟨r, rest, rfl, ?_⟩
    have h : f ∈ opWrites (decodeRb r) := h
    rw [decodeRb_eq_ite] at h
    split_ifs at h with h0 h1 h2
    case pos => cases h
    case pos => exact .inl ⟨List.mem_singleton.mp h, h1⟩
    case pos => exact .inr ⟨List.mem_singleton.mp h, h2⟩
    case neg => cases h

theorem buffer_mem_pickWrites (h : .buffer ∈ pickWrites ws p) :
    p ∈ [Pick.pumpOp, .pumpMicro] ∨ (p = .rbOp ∧ ∃ r rest, ws = r :: rest ∧ r.rbOp = 0b01#2) := by
  cases p with
  | rbOp =>
    obtain ⟨r, rest, hws, ⟨-, hop⟩ | ⟨hf, -⟩⟩ := mem_rbOp_writes h
    · exact .inr ⟨rfl, r, rest, hws, hop⟩
    · cases hf
  | _ => simp_all [pickWrites]

theorem tail_mem_pickWrites (h : .tail ∈ pickWrites ws p) :
    p ∈ [Pick.appOp, .appMicro] ∨ (p = .rbOp ∧ ∃ r rest, ws = r :: rest ∧ r.rbOp = 0b10#2) := by
  cases p with
  | rbOp =>
    obtain ⟨r, rest, hws, ⟨hf, -⟩ | ⟨-, hop⟩⟩ := mem_rbOp_writes h
    · cases hf
    · exact .inr ⟨rfl, r, rest, hws, hop⟩
  | _ => simp_all [pickWrites]

theorem line_mem_pickWrites (h : .line ∈ pickWrites ws p) : p ∈ [Pick.ctrlOp, .ctrlMicro] := by
  cases p with
  | rbOp => obtain ⟨-, -, -, ⟨hf, -⟩ | ⟨hf, -⟩⟩ := mem_rbOp_writes h <;> cases hf
  | _ => simp_all [pickWrites]

theorem writeError_mem_pickWrites (h : .writeError ∈ pickWrites ws p) : p ∈ [Pick.appOp, .appMicro] := by
  cases p with
  | rbOp => obtain ⟨-, -, -, ⟨hf, -⟩ | ⟨hf, -⟩⟩ := mem_rbOp_writes h <;> cases hf
  | _ => simp_all [pickWrites]

theorem nowMs_mem_pickWrites (h : .nowMs ∈ pickWrites ws p) : p ∈ [Pick.tick] := by
  cases p with
  | rbOp => obtain ⟨-, -, -, ⟨hf, -⟩ | ⟨hf, -⟩⟩ := mem_rbOp_writes h <;> cases hf
  | _ => simp_all [pickWrites]

end

end Sys2Proof.Machine
end

section
/-!
Proofs of the statements of 10_state.md, fifth part: one writer per field (R39), and the sticky flag `writeError` (R32).
-/

namespace Sys2Proof.Machine

variable {s t : State}

/-! ### One writer per field -/

/-- Settles O54: a pick other than a reset changes only the fields it writes, and each field is written by its owner's picks. -/
theorem oneWriterPerField : Obligations.OneWriterPerField := by
  intro s t hstep
  refine ⟨step_params hstep, ?_⟩
  by_cases hp : (nextPick s).1 ∈ [Pick.rst, .fire]
  case pos =>
    have hreset (ps : List Pick) : (nextPick s).1 ∈ ps ++ [Pick.rst, .fire] := List.mem_append_right ps hp
    exact ⟨fun _ => .inl (hreset [.pumpOp, .pumpMicro]), fun _ => .inl (hreset [.appOp, .appMicro]),
      fun _ => hreset [.ctrlOp, .ctrlMicro], fun _ => hreset [.appOp, .appMicro], fun _ => hreset [.tick]⟩
  case neg =>
    have hw := step_writesOnly hstep hp
    have howner {ps : List Pick} (h : (nextPick s).1 ∈ ps) : (nextPick s).1 ∈ ps ++ [Pick.rst, .fire] := List.mem_append_left _ h
    exact ⟨fun hne => (buffer_mem_pickWrites (hw.buffer_mem hne)).imp_left howner,
      fun hne => (tail_mem_pickWrites (hw.tail_mem hne)).imp_left howner,
      fun hne => howner (line_mem_pickWrites (hw.line_mem hne)),
      fun hne => howner (writeError_mem_pickWrites (hw.writeError_mem hne)),
      fun hne => howner (nowMs_mem_pickWrites (hw.nowMs_mem hne))⟩

/-! ### The sticky flag -/

theorem writeResult_writeError (r : SendAnswer) (s : State) :
    (writeResult r s).writeError = s.writeError ∨ (writeResult r s).writeError = true := by
  unfold writeResult
  split
  · exact .inr rfl
  · exact .inl rfl

theorem execWrite_writeError (payload : Bytes) (s : State) :
    Ensures (execWrite payload s) fun t => t.writeError = s.writeError ∨ t.writeError = true :=
  .takeApp (.inl rfl) fun _ => .withResult fun r u hu => .next (by
    have hsend : u.writeError = s.writeError := (WritesOnly.of_owned (w := []) (sendBytes_owned hu)).writeError List.not_mem_nil
    rw [← hsend]
    exact writeResult_writeError r u)

theorem execClrWerr_writeError (s : State) : Ensures (execClrWerr s) fun t => t.writeError = s.writeError ∨ t.writeError = false :=
  .takeApp (.inl rfl) fun _ => .next (.inr rfl)

theorem writeError_mem_opWrites {i : Instr} (h : .writeError ∈ opWrites i) : (∃ payload, i = .write payload) ∨ i = .clrWerr := by
  cases i <;> simp_all [opWrites]

/-- An operation that changes the flag is a WRITE that sets it, or a CLRWERR that clears it. -/
theorem exec_changes_writeError {i : Instr} (h : exec i s = .next t) (hne : t.writeError ≠ s.writeError) :
    (∃ payload, i = .write payload) ∧ t.writeError = true ∨ i = .clrWerr ∧ t.writeError = false := by
  obtain ⟨payload, rfl⟩ | rfl := writeError_mem_opWrites ((exec_writesOnly i s t h).writeError_mem hne)
  · exact .inl ⟨⟨payload, rfl⟩, (execWrite_writeError payload s t h).resolve_left hne⟩
  · exact .inr ⟨rfl, (execClrWerr_writeError s t h).resolve_left hne⟩

theorem aOp_of_decodeApp_write {p : Params} {r : AppRequest} {payload : Bytes} (h : decodeApp p r = .ok (.write payload)) :
    r.aOp = 0x6#4 := by
  unfold decodeApp at h
  split at h
  case h_7 hop => exact BitVec.eq_of_toNat_eq hop
  all_goals cases h

theorem aOp_of_decodeApp_clrWerr {p : Params} {r : AppRequest} (h : decodeApp p r = .ok .clrWerr) : r.aOp = 0xA#4 := by
  unfold decodeApp at h
  split at h
  case h_11 hop => exact BitVec.eq_of_toNat_eq hop
  case h_7 => split at h <;> cases h
  all_goals cases h

theorem runAppOp_changes_writeError (h : runAppOp s = .next t) (hne : t.writeError ≠ s.writeError) :
    ∃ r ws, s.ports.portA = r :: ws ∧ (r.aOp = 0x6#4 ∧ t.writeError = true ∨ r.aOp = 0xA#4 ∧ t.writeError = false) := by
  unfold runAppOp at h
  split at h
  case isTrue =>
    obtain ⟨-, rfl⟩ | ⟨r, ws, i, hport, hi, hrun⟩ := takeRequest_eq_next h
    · exact absurd rfl hne
    · refine ⟨r, ws, hport, ?_⟩
      obtain ⟨⟨payload, rfl⟩, hset⟩ | ⟨rfl, hclear⟩ := exec_changes_writeError hrun hne
      · exact .inl ⟨aOp_of_decodeApp_write hi, hset⟩
      · exact .inr ⟨aOp_of_decodeApp_clrWerr hi, hclear⟩
  case isFalse =>
    cases h
    exact absurd rfl hne

theorem writeError_mem_labelWrites {ph : AppPhase} (h : .writeError ∈ labelWrites ph) :
    (∃ r, ph = .writeA2 r) ∨ ph = .taken .clrWerr := by
  unfold labelWrites at h
  split at h <;> simp_all

theorem appMicro_changes_writeError (h : appMicro s = .next t) (hne : t.writeError ≠ s.writeError) :
    (∃ r, s.app = .writeA2 r) ∧ t.writeError = true ∨ s.app = .taken .clrWerr ∧ t.writeError = false := by
  have hmem := writeError_mem_labelWrites ((appMicro_writesOnly s t h).writeError_mem hne)
  unfold appMicro at h
  split_ifs at h with hstall hidle
  · cases h
    exact absurd rfl hne
  · simp [hidle] at hmem
  · unfold appNext at h
    obtain ⟨r, ha⟩ | ha := hmem <;> rw [ha] at h
    · cases h
      exact .inl ⟨⟨r, ha⟩, (writeResult_writeError r s).resolve_left hne⟩
    · cases h
      exact .inr ⟨ha, rfl⟩

theorem fire_writeError (s : State) : (fire s).writeError = s.writeError ∨ (fire s).writeError = false := by
  unfold fire
  split
  · exact .inr rfl
  · exact .inl rfl

/-- The flag changes only by APP, which sets it in a WRITE and clears it in a CLRWERR, or by a reset, which clears it. -/
theorem step_changes_writeError (h : step s = .next t) (hne : t.writeError ≠ s.writeError) :
    ((nextPick s).1 = .appOp ∧ ∃ r ws, s.ports.portA = r :: ws ∧
      (r.aOp = 0x6#4 ∧ t.writeError = true ∨ r.aOp = 0xA#4 ∧ t.writeError = false)) ∨
    ((nextPick s).1 = .appMicro ∧
      ((∃ r, s.app = .writeA2 r) ∧ t.writeError = true ∨ s.app = .taken .clrWerr ∧ t.writeError = false)) ∨
    ((nextPick s).1 ∈ [Pick.rst, .fire] ∧ t.writeError = false) := by
  obtain ⟨d, hd, -⟩ := nextPick_frame s
  have hrun := (step_eq_next h).2
  rw [hd] at hrun
  by_cases hp : (nextPick s).1 ∈ [Pick.rst, .fire]
  case pos =>
    refine .inr (.inr ⟨hp, ?_⟩)
    obtain heq | heq : (nextPick s).1 = .rst ∨ (nextPick s).1 = .fire := by simpa using hp
    · rw [heq] at hrun
      cases hrun
      rfl
    · rw [heq] at hrun
      cases hrun
      exact (fire_writeError { s with drive := d }).resolve_left hne
  case neg =>
    have hmem := writeError_mem_pickWrites ((step_writesOnly h hp).writeError_mem hne)
    obtain heq | heq : (nextPick s).1 = .appOp ∨ (nextPick s).1 = .appMicro := by simpa using hmem
    · rw [heq] at hrun
      exact .inl ⟨heq, runAppOp_changes_writeError (s := { s with drive := d }) hrun hne⟩
    · rw [heq] at hrun
      exact .inr (.inl ⟨heq, appMicro_changes_writeError (s := { s with drive := d }) hrun hne⟩)

/-- Settles O51: of the three ways the flag changes, those that leave it set are WRITE's, and those that leave it clear are CLRWERR's
and a reset's. -/
theorem writeErrorIsSticky : Obligations.WriteErrorIsSticky := by
  refine fun s t hstep => ⟨fun hs ht => ?_, fun hs ht => ?_⟩
  · obtain ⟨hp, r, ws, hport, ⟨hop, -⟩ | ⟨-, hclear⟩⟩ | ⟨hp, ⟨ha, -⟩ | ⟨-, hclear⟩⟩ | ⟨-, hclear⟩ :=
      step_changes_writeError hstep (by simp [hs, ht])
    · exact .inl ⟨hp, r, ws, hport, hop⟩
    · simp [ht] at hclear
    · exact .inr ⟨hp, ha⟩
    · simp [ht] at hclear
    · simp [ht] at hclear
  · obtain ⟨hp, r, ws, hport, ⟨-, hset⟩ | ⟨hop, -⟩⟩ | ⟨hp, ⟨-, hset⟩ | ⟨ha, -⟩⟩ | ⟨hp, -⟩ :=
      step_changes_writeError hstep (by simp [hs, ht])
    · simp [ht] at hset
    · exact .inl ⟨hp, r, ws, hport, hop⟩
    · simp [ht] at hset
    · exact .inr (.inl ⟨hp, ha⟩)
    · exact .inr (.inr hp)

end Sys2Proof.Machine
end

section
/-!
Proofs of the statements of 10_state.md, last part: the reset values (R40), the first answers after reset (R41), and the stop at a cell
outside `0..C-1` (R10, R21).
-/

namespace Sys2Proof.Machine

variable {s : State}

/-! ### Reset -/

/-- Settles O10: each element by evaluation, the cells of the empty memory by `Memory.get?_nil`. -/
theorem resetValues : Obligations.ResetValues :=
  ⟨fun _ => ⟨rfl, rfl, rfl, Memory.get?_nil, rfl, rfl, rfl, rfl, rfl, rfl, rfl, rfl, rfl, rfl, rfl, rfl, rfl, rfl⟩, rfl, rfl⟩

theorem avail_resetWith (p : Params) : (State.resetWith p).avail = 0 := Nat.mod_self p.C

/-- The default line coding on the wire (R40, R87). -/
theorem encodeLC_default : (LineInfo.mk 115200#32 0#8 0#8 8#8 0#8).encodeLC.toBytes =
    [0x00#8, 0xC2#8, 0x01#8, 0x00#8, 0x00#8, 0x00#8, 0x08#8] := by decide

/-- Settles O12: each operation run on the reset state, whatever the open parameters and the operands that are not read. -/
theorem firstAnswersAfterReset : Obligations.FirstAnswersAfterReset := fun d l _ _ _ _ =>
  have havail := avail_resetWith (Params.withOpen d l)
  ⟨rfl, havail, rfl, ⟨_, rfl, rfl⟩, ⟨_, rfl, rfl⟩, ⟨_, rfl, congrArg (fun n => [AppResponse.count n]) havail⟩,
    ⟨_, rfl, rfl⟩, ⟨_, rfl, congrArg ([·]) encodeLC_default⟩⟩

/-! ### Cells that do not exist -/

theorem memRead_of_ge {a : Nat} (h : s.params.C ≤ a) : s.memRead a = .error .noSuchCell := by
  simp [State.memRead, Nat.not_lt.mpr h]

theorem memWrite_of_ge {a : Nat} {b : Byte} (h : s.params.C ≤ a) : s.memWrite a b = .error .noSuchCell := by
  simp [State.memWrite, Nat.not_lt.mpr h]

theorem rbReadByte_of_tail_ge (hne : s.empty = false) (h : s.params.C ≤ s.ring.tail) : rbReadByte s = .error .noSuchCell := by
  simp [rbReadByte, hne, memRead_of_ge h]

theorem rbPeekByte_of_tail_ge (hne : s.empty = false) (h : s.params.C ≤ s.ring.tail) : rbPeekByte s = .error .noSuchCell := by
  simp [rbPeekByte, hne, memRead_of_ge h]

theorem rbWriteByte_of_head_ge {b : Byte} (hroom : s.full = false) (h : s.params.C ≤ s.ring.head) :
    rbWriteByte b s = .error .noSuchCell := by
  simp [rbWriteByte, hroom, memWrite_of_ge h]

/-- Settles O24: the agent is ready, so the operation runs its primitive, and that stops at its access. -/
theorem indexOutOfRangeStops : Obligations.IndexOutOfRangeStops := by
  refine fun s hstall => ⟨fun i hi happ hne htail => ?_, fun b hpump hroom hhead => ?_⟩
  · have hready : s.appReady = true := appReady_iff.mpr ⟨happ, hstall⟩
    have hread := rbReadByte_of_tail_ge (empty_eq_false_iff.mpr hne) htail
    have hpeek := rbPeekByte_of_tail_ge (empty_eq_false_iff.mpr hne) htail
    obtain rfl | rfl | rfl | rfl : i = .rbRead ∨ i = .rbPeek ∨ i = .read ∨ i = .peek := by simpa using hi
    · simp [exec, execRbRead, takeRb, hready, hread]
    · simp [exec, execRbPeek, takeRb, hready, hpeek]
    · simp [exec, execRead, takeApp_ready hready, hread]
    · simp [exec, execPeek, takeApp_ready hready, hpeek]
  · have hready : s.pumpReady = true := pumpReady_iff.mpr ⟨hpump, hstall⟩
    simp [exec, execRbWrite, takeRb, hready, rbWriteByte_of_head_ge (full_eq_false_iff.mpr hroom) hhead]

end Sys2Proof.Machine
end

section
/-!
Proofs of the statements of 20_memory.md, first part: from the invariant a step stops only on an answer of `sendBytes` above the length
offered, or on an ill-formed command (R66, R135 (d), R212).
-/

namespace Sys2Proof.Machine

variable {s s₀ t : State}

/-! ### The two stops that are left -/

/-- A step begun in `s₀` answers a next state, or stops for a reason that `s₀` gives it: a listed answer of `sendBytes` (U7), or an
ill-formed command at the head of port A (U17). -/
inductive StopsSafely (s₀ : State) : Outcome → Prop
  | next (t : State) : StopsSafely s₀ (.next t)
  | oversent (h : s₀.drive.sendAnswers ≠ []) : StopsSafely s₀ (.fault .sentMoreThanOffered)
  | malformed {r : AppRequest} {ws : List AppRequest} (hport : s₀.ports.portA = r :: ws) (hwf : r.wf s₀.params = false) :
      StopsSafely s₀ (.refused .malformedRequest)

namespace StopsSafely

variable {o : Outcome} {k : State → Outcome}

theorem andThen {f : State → Outcome} (h : StopsSafely s₀ o) (hf : Ensures o fun u => StopsSafely s₀ (f u)) :
    StopsSafely s₀ (andThen o f) := by
  cases h with
  | next t => exact hf t rfl
  | oversent h => exact .oversent h
  | malformed hport hwf => exact .malformed hport hwf

/-- A call that gives a result does not stop its caller. -/
theorem withResult {α : Type} {r : Except Fault (α × State)} {f : α → State → Outcome} (h : ∃ a u, r = .ok (a, u))
    (hf : ∀ a u, StopsSafely s₀ (f a u)) : StopsSafely s₀ (withResult r f) := by
  obtain ⟨a, u, rfl⟩ := h
  exact hf a u

theorem takeApp {i : Instr} (hrun : StopsSafely s₀ (k s)) : StopsSafely s₀ (takeApp i s k) := by
  unfold Machine.takeApp
  split
  · exact hrun
  · exact .next _

theorem takeCtl {w : SetupPacket} (hrun : StopsSafely s₀ (k s)) : StopsSafely s₀ (takeCtl w s k) := by
  unfold Machine.takeCtl
  split
  · exact hrun
  · exact .next _

theorem takeRb {ready : Bool} {r : RbRequest} (hrun : StopsSafely s₀ (k s)) : StopsSafely s₀ (takeRb ready r s k) := by
  unfold Machine.takeRb
  split
  · exact hrun
  · exact .next _

end StopsSafely

/-! ### Calls that give a result -/

/-- An endpoint that holds a whole line-coding block gives its seven bytes one by one. -/
theorem exists_seven_of_lcLen_le {q : Bytes} (h : lcLen ≤ q.length) :
    ∃ d0 d1 d2 d3 d4 d5 d6 rest, q = d0 :: d1 :: d2 :: d3 :: d4 :: d5 :: d6 :: rest := by
  match q, h with
  | d0 :: d1 :: d2 :: d3 :: d4 :: d5 :: d6 :: rest, _ => exact ⟨d0, d1, d2, d3, d4, d5, d6, rest, rfl⟩
  | [], h | [_], h | [_, _], h | [_, _, _], h | [_, _, _, _], h | [_, _, _, _, _], h | [_, _, _, _, _, _], h => simp [lcLen] at h

theorem rbReadByte_of_tail_lt (h : s.ring.tail < s.params.C) : ∃ r t, rbReadByte s = .ok (r, t) := by
  unfold rbReadByte
  rw [memRead_of_lt h]
  split <;> exact ⟨_, _, rfl⟩

theorem rbPeekByte_of_tail_lt (h : s.ring.tail < s.params.C) : ∃ r t, rbPeekByte s = .ok (r, t) := by
  unfold rbPeekByte
  rw [memRead_of_lt h]
  split <;> exact ⟨_, _, rfl⟩

theorem rbWriteByte_of_head_lt {b : Byte} (h : s.ring.head < s.params.C) : ∃ ok t, rbWriteByte b s = .ok (ok, t) := by
  unfold rbWriteByte
  rw [memWrite_of_lt h]
  split <;> exact ⟨_, _, rfl⟩

theorem withTailByte_of_tail_lt {f : Byte → State} (h : s.ring.tail < s.params.C) :
    withTailByte s f = .next (f (s.cell s.ring.tail)) := by simp [withTailByte, memRead_of_lt h]

/-- `sendBytes` stops only on an answer that is listed (U7); a free one is bounded by the length. -/
theorem StopsSafely.sendBytes {payload : Bytes} {f : SendAnswer → State → Outcome} (hs : s.drive.sendAnswers = s₀.drive.sendAnswers)
    (hf : ∀ r u, StopsSafely s₀ (f r u)) : StopsSafely s₀ (Machine.withResult (Machine.sendBytes payload s) f) := by
  unfold Machine.sendBytes drawSend
  split
  next => exact hf _ _
  next e he =>
    split at he
    next => cases he
    next a rest ha =>
      split at he
      · cases he
      · cases he
        exact .oversent (by simp [← hs, ha])

/-! ### PUMP (R133) -/

theorem pumpU3_stopsSafely (h : Inv s) (hp : s.pump.phase = .run .u3) : StopsSafely s₀ (pumpU3 s) := by
  obtain ⟨-, -, hheld⟩ := (pumpInv_u3 hp).mp h.pump
  obtain ⟨b, rest, hq⟩ := List.exists_cons_of_ne_nil hheld
  exact .withResult ⟨b, _, receiveByte_rx_cons hq⟩ fun _ _ => .next _

theorem pumpU4_stopsSafely (h : Inv s) : StopsSafely s₀ (pumpU4 s) := by
  unfold pumpU4
  rw [memWrite_of_lt h.head_lt]
  exact .next _

theorem pumpMicro_stopsSafely (h : Inv s) : StopsSafely s₀ (pumpMicro s) := by
  unfold pumpMicro
  split
  · exact .next _
  cases hp : s.pump.phase with
  | idle => exact .next _
  | run l =>
    cases l with
    | u3 => exact pumpU3_stopsSafely h hp
    | u4 => exact pumpU4_stopsSafely h
    | u1 | u2 | u5 | u6 => exact .next _

/-- In a turn of the loop that finds room and data, U1 and U2 lead to U3. -/
theorem pumpU2_pumpU1_of_turn (h : Inv s) (hroom : ¬s.full = true) (hq : s.isEndpointDataAvailable .rx = true) :
    Inv (pumpU2 (pumpU1 s)) ∧ (pumpU2 (pumpU1 s)).pump.phase = .run .u3 := by
  refine ⟨pumpU2_keeps_inv (pumpU1_keeps_inv h) (pumpU1_phase_of_room (by simpa using hroom)), ?_⟩
  rw [pumpU2_of_available (s := pumpU1 s) hq]
  rfl

theorem pumpLoop_stopsSafely (turns : Nat) : ∀ {s : State}, Inv s → StopsSafely s₀ (pumpLoop turns s) := by
  induction turns with
  | zero => exact fun _ => .next _
  | succ turns ih =>
    intro s h
    unfold pumpLoop
    split_ifs with hfull hq
    · exact .next _
    · obtain ⟨hu2, hphase⟩ := pumpU2_pumpU1_of_turn h hfull hq
      refine (pumpU3_stopsSafely hu2 hphase).andThen fun u3 ht3 => ?_
      obtain ⟨hu3, hphase3⟩ := pumpU3_keeps_inv hu2 hphase u3 ht3
      refine (pumpU4_stopsSafely hu3).andThen fun u4 ht4 => ?_
      obtain ⟨hu4, hphase4⟩ := pumpU4_keeps_inv hu3 hphase3 u4 ht4
      exact ih (pumpU5_keeps_inv hu4 hphase4)
    · exact .next _

theorem execPump_stopsSafely (h : Inv s) : StopsSafely s₀ (execPump s) := by
  unfold execPump
  split
  · exact pumpLoop_stopsSafely _ (pumpU0_keeps_inv h)
  · exact .next _

/-! ### CTRL (R150 to R168) -/

theorem ctlS3_stopsSafely (h : lcLen ≤ s.env.ep0q.length) : StopsSafely s₀ (ctlS3 s) := by
  obtain ⟨d0, d1, d2, d3, d4, d5, d6, rest, hq⟩ := exists_seven_of_lcLen_le h
  rw [ctlS3_of_seven hq]
  exact .next _

theorem ctlS2_ep0q (s : State) : (ctlS2 s).env.ep0q = s.env.ep0q := by
  unfold ctlS2
  split <;> rfl

/-- The wait ends only where the data stage holds all that S3 pulls (R7). -/
theorem slcResume_stopsSafely (h : lcLen ≤ s.params.slcThreshold) : StopsSafely s₀ (slcResume s) := by
  unfold slcResume
  split
  case isTrue hdata =>
    have hlen : lcLen ≤ (ctlS2 s).env.ep0q.length := by
      rw [ctlS2_ep0q]
      exact h.trans hdata
    exact (ctlS3_stopsSafely hlen).andThen fun _ _ => .next _
  case isFalse => exact .next _

theorem ctlMicro_stopsSafely (h : Inv s) : StopsSafely s₀ (ctlMicro s) := by
  have hlabel := h.ctl
  unfold CtlInv at hlabel
  unfold ctlMicro
  cases hc : s.ctl.phase with
  | idle | waitFifo => exact .next _
  | dispatch l =>
    rw [hc] at hlabel
    cases l with
    | s3 => exact ctlS3_stopsSafely hlabel.2
    | t2 | g1 | g2 | s1 | s4 | s5 | l1 | l2 | l3 | n1 => exact .next _

/-! ### APP (R180 to R206) -/

theorem appA1_stopsSafely (i : Instr) (hs : s.drive.sendAnswers = s₀.drive.sendAnswers) : StopsSafely s₀ (appA1 i s) := by
  cases i with
  | write => exact .sendBytes hs fun _ _ => .next _
  | _ => exact .next _

theorem appNext_stopsSafely (h : Inv s) (hs : s.drive.sendAnswers = s₀.drive.sendAnswers) : StopsSafely s₀ (appNext s) := by
  unfold appNext
  cases s.app with
  | taken i => exact appA1_stopsSafely i hs
  | peekK2 | readD2 =>
    dsimp only
    rw [withTailByte_of_tail_lt h.tail_lt]
    exact .next _
  | readA2 r => cases r <;> exact .next _
  | idle | readD3 | readA3 | readA4 | writeA2 | isOpenA2 | isOpenA3 | isOpenA4 => exact .next _

/-- A command that does not decode is ill formed (R91, R212). -/
theorem wf_of_decodeApp_error {p : Params} {r : AppRequest} {e : Reject} (h : decodeApp p r = .error e) : r.wf p = false := by
  unfold decodeApp at h
  split at h
  case h_7 hop =>
    split at h
    · cases h
    · next hlen =>
      have hcode : r.aOp = 6#4 := BitVec.eq_of_toNat_eq hop
      simpa [AppRequest.wf, hcode] using hlen
  all_goals cases h

theorem takeRequest_stopsSafely {k : Instr → State → Outcome} (hparams : s.params = s₀.params)
    (hports : s.ports.portA = s₀.ports.portA)
    (hk : ∀ i ws, StopsSafely s₀ (k i (s.setPortA ws))) : StopsSafely s₀ (takeRequest s k) := by
  unfold takeRequest
  split
  next => exact .next _
  next r ws hport =>
    split
    next => exact hk _ _
    next e he => exact .malformed (hports.symm.trans hport) (hparams ▸ wf_of_decodeApp_error he)

/-! ### Whole operations, picks and steps -/

theorem execSetup_stopsSafely (packet : SetupPacket) : StopsSafely s₀ (execSetup packet s) := by
  unfold execSetup
  split <;> exact .next _

theorem exec_stopsSafely {i : Instr} (h : Inv s) (hs : s.drive.sendAnswers = s₀.drive.sendAnswers) : StopsSafely s₀ (exec i s) := by
  unfold exec
  cases i with
  | rxReady => exact .next _
  | pump => exact execPump_stopsSafely h
  | setup packet => exact execSetup_stopsSafely packet
  | rbAvail => exact .takeRb (.next _)
  | rbWrite b => exact .takeRb (.withResult (rbWriteByte_of_head_lt h.head_lt) fun _ _ => .next _)
  | rbRead => exact .takeRb (.withResult (rbReadByte_of_tail_lt h.tail_lt) fun _ _ => .next _)
  | rbPeek => exact .takeRb (.withResult (rbPeekByte_of_tail_lt h.tail_lt) fun _ _ => .next _)
  | getLineCoding | setControlLineState | ctrlUnhandled => exact .takeCtl (.next _)
  | setLineCoding => exact .takeCtl (slcResume_stopsSafely (s := ctlS1 s) h.lcLen_le_slcThreshold)
  | peek => exact .takeApp (.withResult (rbPeekByte_of_tail_lt h.tail_lt) fun _ _ => .next _)
  | read =>
    refine .takeApp (.withResult (rbReadByte_of_tail_lt h.tail_lt) fun r _ => ?_)
    cases r <;> exact .next _
  | write => exact .takeApp (.sendBytes hs fun _ _ => .next _)
  | openPort | openCfg | closePort | avail | flush | isOpen | getWerr | clrWerr | appReserved => exact .takeApp (.next _)

theorem runAppOp_stopsSafely (h : Inv s) (hparams : s.params = s₀.params) (hport : s.ports.portA = s₀.ports.portA)
    (hs : s.drive.sendAnswers = s₀.drive.sendAnswers) : StopsSafely s₀ (runAppOp s) := by
  unfold runAppOp
  split
  · exact takeRequest_stopsSafely hparams hport fun i ws => exec_stopsSafely (h.setPortA ws) hs
  · exact .next _

theorem appMicro_stopsSafely (h : Inv s) (hparams : s.params = s₀.params) (hport : s.ports.portA = s₀.ports.portA)
    (hs : s.drive.sendAnswers = s₀.drive.sendAnswers) : StopsSafely s₀ (appMicro s) := by
  unfold appMicro
  split_ifs
  · exact .next _
  · exact takeRequest_stopsSafely hparams hport fun _ _ => .next _
  · exact appNext_stopsSafely h hs

/-- The trigger word decodes to PUMP exactly when a pass is asked for (R80, R133). -/
theorem runPick_pumpOp (s : State) : runPick .pumpOp s = execPump s := by
  show runPumpOp s = execPump s
  unfold runPumpOp
  cases hready : s.pumpReady with
  | false => simp [execPump, hready]
  | true =>
    cases hreq : s.pump.req with
    | true => rfl
    | false => simp [execPump, hreq, decode]

theorem runCtrlOp_stopsSafely (h : Inv s) (hs : s.drive.sendAnswers = s₀.drive.sendAnswers) : StopsSafely s₀ (runCtrlOp s) := by
  unfold runCtrlOp
  split_ifs
  · exact exec_stopsSafely h hs
  · exact slcResume_stopsSafely h.lcLen_le_slcThreshold
  · exact .next _

theorem runUsbOp_stopsSafely (s : State) : StopsSafely s₀ (runUsbOp s) := by
  unfold runUsbOp
  split
  next => exact .next _
  next e rest _ =>
    split
    next i hi =>
      obtain rfl | rfl := decodeUsb_eq_ok hi
      · exact .next _
      · exact execSetup_stopsSafely e.uSetup
    next => exact .next _

theorem runRbOp_stopsSafely (h : Inv s) (hs : s.drive.sendAnswers = s₀.drive.sendAnswers) : StopsSafely s₀ (runRbOp s) := by
  unfold runRbOp
  split
  next => exact .next _
  next r rest _ =>
    split
    · exact exec_stopsSafely (h.setPortR rest) hs
    · exact .next _

theorem runPick_stopsSafely (h : Inv s) (p : Pick) (hparams : s.params = s₀.params) (hport : s.ports.portA = s₀.ports.portA)
    (hs : s.drive.sendAnswers = s₀.drive.sendAnswers) : StopsSafely s₀ (runPick p s) := by
  cases p with
  | appOp => exact runAppOp_stopsSafely h hparams hport hs
  | appMicro => exact appMicro_stopsSafely h hparams hport hs
  | pumpOp =>
    rw [runPick_pumpOp]
    exact execPump_stopsSafely h
  | pumpMicro => exact pumpMicro_stopsSafely h
  | ctrlOp => exact runCtrlOp_stopsSafely h hs
  | ctrlMicro => exact ctlMicro_stopsSafely h
  | usbOp => exact runUsbOp_stopsSafely s
  | rbOp => exact runRbOp_stopsSafely h hs
  | presentApp | presentUsb | presentRb | packet | pkt | data | tick | fire | rst => exact .next _

theorem nextPick_sendAnswers (s : State) : (nextPick s).2.drive.sendAnswers = s.drive.sendAnswers := by
  unfold nextPick
  split <;> rfl

theorem step_stopsSafely (h : Inv s) : StopsSafely s (step s) := by
  have hparams : (nextPick s).2.params = s.params := congrArg Prod.fst (nextPick_owned s)
  have hport : (nextPick s).2.ports.portA = s.ports.portA := congrArg Ports.portA (nextPick_ports s)
  rw [step_of_ok h.ok]
  exact runPick_stopsSafely h.nextPick _ hparams hport (nextPick_sendAnswers s)

/-- Settles O57: each label's fact of the invariant keeps its micro-step from stopping, and what is left is what `StopsSafely` lists. -/
theorem invStepsDoNotStop : Obligations.InvStepsDoNotStop := by
  intro s h
  have hstep := step_stopsSafely h
  constructor
  · intro e he
    rw [he] at hstep
    cases hstep with
    | oversent hs => exact ⟨rfl, hs⟩
  · intro e he
    rw [he] at hstep
    cases hstep with
    | malformed hport hwf => exact ⟨rfl, _, _, hport, hwf⟩

end Sys2Proof.Machine
end

section
/-!
Proofs of the statements of 20_memory.md, second part: what the receive stream and the transmit log are read from, and the operations that
leave the one and at most add to the other.
-/

namespace Sys2Proof.Machine

variable {s t u : State}

/-! ### The receive side and the transmit log -/

/-- What the receive stream is read from: the buffer, the byte in flight, the endpoint, and the reset that numbers unwritten cells. -/
def State.receiveSide (s : State) : Params × Ring × PumpPhase × Byte × Bytes × Nat :=
  (s.params, s.ring, s.pump.phase, s.pump.byte, s.env.rxq, s.drive.epoch)

/-- The receive side with the transmit log. -/
def State.flow (s : State) : (Params × Ring × PumpPhase × Byte × Bytes × Nat) × Bytes := (s.receiveSide, s.env.txlog)

theorem receiveSide_eq_iff : t.receiveSide = s.receiveSide ↔ t.params = s.params ∧ t.ring = s.ring ∧ t.pump.phase = s.pump.phase ∧
    t.pump.byte = s.pump.byte ∧ t.env.rxq = s.env.rxq ∧ t.drive.epoch = s.drive.epoch := by simp only [State.receiveSide, Prod.mk.injEq]

theorem unread_of_receiveSide (h : t.receiveSide = s.receiveSide) : t.unread = s.unread := by
  obtain ⟨hparams, hring, -, -, -, hepoch⟩ := receiveSide_eq_iff.mp h
  simp only [State.unread, State.avail, State.unreadCell, State.cell, hparams, hring, hepoch]

theorem inFlight_of_receiveSide (h : t.receiveSide = s.receiveSide) : t.inFlight = s.inFlight := by
  obtain ⟨-, -, hphase, hbyte, -, -⟩ := receiveSide_eq_iff.mp h
  simp only [State.inFlight, hphase, hbyte]

theorem stream_of_receiveSide (h : t.receiveSide = s.receiveSide) : t.stream = s.stream := by
  obtain ⟨-, -, -, -, hrxq, -⟩ := receiveSide_eq_iff.mp h
  simp only [State.stream, unread_of_receiveSide h, inFlight_of_receiveSide h, hrxq]

/-- The step from `s` to `t` leaves the receive side, and adds to the transmit log at most behind its end. -/
structure Carries (s t : State) : Prop where
  receiveSide : t.receiveSide = s.receiveSide
  txlog : s.env.txlog <+: t.env.txlog

namespace Carries

theorem of_flow (h : t.flow = s.flow) : Carries s t :=
  have hlog : t.env.txlog = s.env.txlog := congrArg Prod.snd h
  ⟨congrArg Prod.fst h, hlog ▸ List.prefix_rfl⟩

theorem trans (h : Carries s t) (h' : Carries t u) : Carries s u :=
  ⟨h'.receiveSide.trans h.receiveSide, h.txlog.trans h'.txlog⟩

/-- What follows leaves both. -/
theorem keeps (h : Carries s t) (hf : u.flow = t.flow) : Carries s u := h.trans (of_flow hf)

/-- What went before left both. -/
theorem after (hf : t.flow = s.flow) (h : Carries t u) : Carries s u := (of_flow hf).trans h

end Carries

/-! ### Shared operations -/

theorem applyHeuristic_flow (s : State) : (applyHeuristic s).flow = s.flow := by
  unfold applyHeuristic
  split_ifs <;> rfl

theorem readTrigger_flow (s : State) : (readTrigger s).flow = s.flow := by
  unfold readTrigger
  split <;> rfl

theorem sampleEarly_flow (s : State) : (sampleEarly s).2.flow = s.flow := by
  unfold sampleEarly drawEarly
  split <;> rfl

theorem writeResult_flow (r : SendAnswer) (s : State) : (writeResult r s).flow = s.flow := by
  unfold writeResult
  split <;> rfl

theorem isOpenA1_flow (s : State) : (isOpenA1 s).flow = s.flow := by
  unfold isOpenA1
  split <;> rfl

theorem isOpenA4_flow (t0 : Nat) (sample : Option Byte) (s : State) : (isOpenA4 t0 sample s).flow = s.flow := by
  unfold isOpenA4
  split <;> rfl

theorem ctlS2_flow (s : State) : (ctlS2 s).flow = s.flow := by
  unfold ctlS2
  split <;> rfl

/-- The accepted bytes join the log behind its end (R69). -/
theorem sendBytes_carries {payload : Bytes} {r : SendAnswer} (h : sendBytes payload s = .ok (r, t)) : Carries s t := by
  obtain ⟨u, hu, rfl⟩ := sendBytes_eq_ok h
  obtain ⟨-, ⟨-, -, rfl⟩ | ⟨rest, -, rfl⟩⟩ := drawSend_eq_ok hu <;> exact ⟨rfl, List.prefix_append ..⟩

/-! ### CTRL -/

theorem slcResume_carries (s : State) : Ensures (slcResume s) (Carries s) := by
  unfold slcResume
  split
  · intro t ht
    obtain ⟨d, q, -, rfl⟩ := slcFinish_eq_next ht
    exact (Carries.of_flow (ctlS2_flow s)).keeps rfl
  · exact .next (.of_flow rfl)

theorem ctlMicro_carries (s : State) : Ensures (ctlMicro s) (Carries s) := by
  unfold ctlMicro
  cases s.ctl.phase with
  | idle => exact .next (.of_flow rfl)
  | waitFifo => exact .next (.of_flow (ctlS2_flow s))
  | dispatch l =>
    cases l with
    | s3 =>
      intro t ht
      obtain ⟨d, q, -, rfl⟩ := ctlS3_eq_next ht
      exact .of_flow rfl
    | l2 => exact .next (.of_flow (applyHeuristic_flow s))
    | t2 | g1 | g2 | s1 | s4 | s5 | l1 | l3 | n1 => exact .next (.of_flow rfl)

theorem execSetup_carries (packet : SetupPacket) (s : State) : Ensures (execSetup packet s) (Carries s) := by
  unfold execSetup
  split <;> exact .next (.of_flow rfl)

/-! ### APP -/

theorem execIsOpen_carries (s : State) : Ensures (execIsOpen s) (Carries s) :=
  .takeApp (.of_flow rfl) fun _ => .next (.of_flow (by
    split
    · rfl
    · exact sampleEarly_flow s))

theorem appA1_carries (i : Instr) (s : State) : Ensures (appA1 i s) (Carries s) := by
  cases i with
  | isOpen => exact .next (.of_flow (isOpenA1_flow s))
  | write => exact .withResult fun r u hu => .next ((sendBytes_carries hu).keeps rfl)
  | peek => exact .next (.of_flow (by split <;> rfl))
  | _ => exact .next (.of_flow rfl)

theorem exists_readD3_of_tail_mem {ph : AppPhase} (h : .tail ∈ labelWrites ph) : ∃ v, ph = .readD3 v := by
  unfold labelWrites at h
  split at h <;> simp_all

/-- Of APP's micro-steps D3 alone, which moves `tail`, reaches the stream (R191). -/
theorem appNext_carries (h : .tail ∉ labelWrites s.app) : Ensures (appNext s) (Carries s) := by
  unfold appNext
  cases ha : s.app with
  | taken i => exact appA1_carries i s
  | peekK2 | readD2 => exact .withTailByte (.of_flow rfl)
  | readD3 v => simp [ha, labelWrites] at h
  | readA2 r => cases r <;> exact .next (.of_flow rfl)
  | readA3 v => exact .next (.of_flow (readTrigger_flow s))
  | writeA2 r => exact .next (.of_flow (writeResult_flow r s))
  | isOpenA2 => exact .next (.of_flow (sampleEarly_flow s))
  | isOpenA4 t0 sample => exact .next (.of_flow (isOpenA4_flow t0 sample s))
  | idle | readA4 | isOpenA3 => exact .next (.of_flow rfl)

/-! ### Whole operations -/

/-- Of the operations those that write the buffer or move `tail` alone reach the stream (R39). -/
theorem exec_carries {i : Instr} (hbuffer : .buffer ∉ opWrites i) (htail : .tail ∉ opWrites i) (s : State) :
    Ensures (exec i s) (Carries s) := by
  unfold exec
  cases i with
  | rbWrite | pump => simp [opWrites] at hbuffer
  | rbRead | read => simp [opWrites] at htail
  | rbAvail => exact .takeRb (.of_flow rfl) fun _ => .next (.of_flow rfl)
  | rbPeek =>
    refine .takeRb (.of_flow rfl) fun _ => .withResult fun r u hu => .next ?_
    obtain ⟨rfl, -⟩ := rbPeekByte_eq_ok hu
    exact .of_flow rfl
  | rxReady => exact .next (.of_flow rfl)
  | setup packet => exact execSetup_carries packet s
  | getLineCoding | ctrlUnhandled => exact .takeCtl (.of_flow rfl) fun _ => .next (.of_flow rfl)
  | setLineCoding => exact .takeCtl (.of_flow rfl) fun _ => (slcResume_carries (ctlS1 s)).mono fun _ => .after rfl
  | setControlLineState v =>
    exact .takeCtl (.of_flow rfl) fun _ => .next (.of_flow (applyHeuristic_flow (ctlL1 (lowByte v) s)))
  | openPort | openCfg | closePort | avail | flush | getWerr | clrWerr | appReserved =>
    exact .takeApp (.of_flow rfl) fun _ => .next (.of_flow rfl)
  | peek =>
    refine .takeApp (.of_flow rfl) fun _ => .withResult fun r u hu => .next ?_
    obtain ⟨rfl, -⟩ := rbPeekByte_eq_ok hu
    exact .of_flow rfl
  | write =>
    exact .takeApp (.of_flow rfl) fun _ => .withResult fun r u hu => .next ((sendBytes_carries hu).keeps (writeResult_flow r u))
  | isOpen => exact execIsOpen_carries s

theorem runCtrlOp_carries (s : State) : Ensures (runCtrlOp s) (Carries s) := by
  unfold runCtrlOp
  split_ifs
  · have hsub := opWrites_subset_of_request (decodeSetup_format s.params s.ctl.setup)
    exact exec_carries (fun hb => by simpa using hsub hb) (fun ht => by simpa using hsub ht) s
  · exact slcResume_carries s
  · exact .next (.of_flow rfl)

theorem runUsbOp_carries (s : State) : Ensures (runUsbOp s) (Carries s) := by
  unfold runUsbOp
  split
  next => exact .next (.of_flow rfl)
  next e rest _ =>
    split
    next i hi =>
      obtain rfl | rfl := decodeUsb_eq_ok hi
      · exact .next (.of_flow rfl)
      · exact (execSetup_carries e.uSetup (s.setPortU rest)).mono fun _ => .after rfl
    next => exact .next (.of_flow rfl)

end Sys2Proof.Machine
end

section
/-!
Proofs of the statements of 20_memory.md, third part: the transmit log only grows (R61, R69).
-/

namespace Sys2Proof.Machine

variable {s t : State}

/-! ### PUMP and the Ring Buffer primitives -/

theorem pumpU2_txlog (s : State) : (pumpU2 s).env.txlog = s.env.txlog := by
  unfold pumpU2
  split <;> rfl

theorem pumpU3_txlog (s : State) : Ensures (pumpU3 s) fun t => t.env.txlog = s.env.txlog := fun t ht => by
  obtain ⟨b, rest, -, rfl⟩ := pumpU3_eq_next ht
  rfl

theorem pumpU4_txlog (s : State) : Ensures (pumpU4 s) fun t => t.env.txlog = s.env.txlog := fun t ht => by
  obtain ⟨-, rfl⟩ := pumpU4_eq_next ht
  rfl

theorem pumpMicro_txlog (s : State) : Ensures (pumpMicro s) fun t => t.env.txlog = s.env.txlog := by
  unfold pumpMicro
  split
  · exact .next rfl
  cases s.pump.phase with
  | idle => exact .next (by split <;> rfl)
  | run l =>
    cases l with
    | u2 => exact .next (pumpU2_txlog s)
    | u3 => exact pumpU3_txlog s
    | u4 => exact pumpU4_txlog s
    | u1 | u5 | u6 => exact .next rfl

theorem pumpLoop_txlog (turns : Nat) : ∀ s : State, Ensures (pumpLoop turns s) fun t => t.env.txlog = s.env.txlog := by
  induction turns with
  | zero => exact fun s => .next rfl
  | succ turns ih =>
    intro s
    have hu2 : (pumpU2 (pumpU1 s)).env.txlog = s.env.txlog := pumpU2_txlog (pumpU1 s)
    unfold pumpLoop
    split_ifs
    · exact .next rfl
    · refine .andThen ((pumpU3_txlog _).mono fun u3 hu3 => .andThen ((pumpU4_txlog u3).mono fun u4 hu4 => ?_))
      exact (ih (pumpU5 u4)).mono fun t ht => ht.trans (hu4.trans (hu3.trans hu2))
    · exact .next hu2

theorem execPump_txlog (s : State) : Ensures (execPump s) fun t => t.env.txlog = s.env.txlog := by
  unfold execPump
  split
  · exact pumpLoop_txlog _ (pumpU0 s)
  · exact .next rfl

theorem rbReadByte_txlog {r : Option Byte} (h : rbReadByte s = .ok (r, t)) : t.env.txlog = s.env.txlog := by
  obtain ⟨-, -, rfl⟩ | ⟨-, -, -, rfl⟩ := rbReadByte_eq_ok h <;> rfl

theorem rbWriteByte_txlog {b : Byte} {ok : Bool} (h : rbWriteByte b s = .ok (ok, t)) : t.env.txlog = s.env.txlog := by
  obtain ⟨-, -, rfl⟩ | ⟨-, -, -, rfl⟩ := rbWriteByte_eq_ok h <;> rfl

theorem execRead_txlog (s : State) : Ensures (execRead s) fun t => t.env.txlog = s.env.txlog :=
  .takeApp rfl fun _ => .withResult fun r u hu => by
    have hread := rbReadByte_txlog hu
    cases r with
    | none => exact .next hread
    | some v => exact .next ((congrArg Prod.snd (readTrigger_flow u)).trans hread)

theorem execRbRead_txlog (s : State) : Ensures (execRbRead s) fun t => t.env.txlog = s.env.txlog :=
  .takeRb rfl fun _ => .withResult fun _ _ hu =>
    have hread := rbReadByte_txlog hu
    .next hread

theorem execRbWrite_txlog (b : Byte) (s : State) : Ensures (execRbWrite b s) fun t => t.env.txlog = s.env.txlog :=
  .takeRb rfl fun _ => .withResult fun _ _ hu =>
    have hwrite := rbWriteByte_txlog hu
    .next hwrite

/-! ### Whole operations -/

theorem Ensures.txlog_grows {o : Outcome} (h : Ensures o fun t => t.env.txlog = s.env.txlog) :
    Ensures o fun t => s.env.txlog <+: t.env.txlog := h.mono fun _ ht => ht ▸ List.prefix_rfl

/-- An operation that reaches the stream leaves the log, and any other adds to it at most. -/
theorem exec_txlog (i : Instr) (s : State) : Ensures (exec i s) fun t => s.env.txlog <+: t.env.txlog := by
  cases i with
  | rbWrite => exact (execRbWrite_txlog _ s).txlog_grows
  | rbRead => exact (execRbRead_txlog s).txlog_grows
  | read => exact (execRead_txlog s).txlog_grows
  | pump => exact (execPump_txlog s).txlog_grows
  | _ => exact (exec_carries (by simp [opWrites]) (by simp [opWrites]) s).mono fun _ => Carries.txlog

theorem appNext_txlog (s : State) : Ensures (appNext s) fun t => s.env.txlog <+: t.env.txlog := by
  by_cases h : .tail ∈ labelWrites s.app
  case pos =>
    obtain ⟨v, ha⟩ := exists_readD3_of_tail_mem h
    unfold appNext
    rw [ha]
    exact .next List.prefix_rfl
  case neg => exact (appNext_carries h).mono fun _ => Carries.txlog

theorem appMicro_txlog (s : State) : Ensures (appMicro s) fun t => s.env.txlog <+: t.env.txlog := by
  unfold appMicro
  split_ifs
  · exact .next List.prefix_rfl
  · exact .takeRequest List.prefix_rfl fun _ _ _ _ _ => .next List.prefix_rfl
  · exact appNext_txlog s

/-! ### ENV -/

theorem arrive_txlog (p : Bytes) (s : State) : (arrive p s).env.txlog = s.env.txlog := by
  unfold arrive
  split <;> rfl

theorem drawPacket_txlog (s : State) : (drawPacket s).2.env.txlog = s.env.txlog := by
  unfold drawPacket
  split <;> rfl

theorem arriveNext_txlog (s : State) : (arriveNext s).env.txlog = s.env.txlog := by
  unfold arriveNext
  split
  · exact (arrive_txlog _ _).trans (drawPacket_txlog s)
  · rfl

theorem presentUsb_txlog (e : UsbEvent) (s : State) : (presentUsb e s).env.txlog = s.env.txlog := by
  obtain ⟨-, heq⟩ | ⟨-, heq⟩ := presentUsb_cases e s
  · rw [heq, arriveNext_txlog]
  · rw [heq]; rfl

/-! ### Picks and steps -/

theorem runAppOp_txlog (s : State) : Ensures (runAppOp s) fun t => s.env.txlog <+: t.env.txlog := by
  unfold runAppOp
  split
  · exact .takeRequest List.prefix_rfl fun r rest i _ _ => exec_txlog i (s.setPortA rest)
  · exact .next List.prefix_rfl

theorem runRbOp_txlog (s : State) : Ensures (runRbOp s) fun t => s.env.txlog <+: t.env.txlog := by
  unfold runRbOp
  split
  next => exact .next List.prefix_rfl
  next r rest _ =>
    split
    · exact exec_txlog (decodeRb r) (s.setPortR rest)
    · exact .next List.prefix_rfl

theorem runPick_txlog {p : Pick} (hp : p ∉ [Pick.rst, .fire]) (s : State) :
    Ensures (runPick p s) fun t => s.env.txlog <+: t.env.txlog := by
  cases p with
  | appOp => exact runAppOp_txlog s
  | appMicro => exact appMicro_txlog s
  | pumpOp =>
    rw [runPick_pumpOp]
    exact (execPump_txlog s).txlog_grows
  | pumpMicro => exact (pumpMicro_txlog s).txlog_grows
  | ctrlOp => exact (runCtrlOp_carries s).mono fun _ => Carries.txlog
  | ctrlMicro => exact (ctlMicro_carries s).mono fun _ => Carries.txlog
  | usbOp => exact (runUsbOp_carries s).mono fun _ => Carries.txlog
  | rbOp => exact runRbOp_txlog s
  | presentUsb e => exact Ensures.txlog_grows (.next (presentUsb_txlog e s))
  | packet => exact Ensures.txlog_grows (.next (arriveNext_txlog s))
  | pkt bs => exact Ensures.txlog_grows (.next (arrive_txlog bs s))
  | presentApp | presentRb | data | tick => exact .next List.prefix_rfl
  | fire | rst => simp at hp

/-- A pick of a reset resets the block, or, a Fire that is not due, only takes the pick. -/
theorem step_eq_next_of_reset (h : step s = .next t) (hp : (nextPick s).1 ∈ [Pick.rst, .fire]) :
    t = (nextPick s).2.resetBlock ∨ t = (nextPick s).2 := by
  have hrun := (step_eq_next h).2
  obtain heq | heq : (nextPick s).1 = .rst ∨ (nextPick s).1 = .fire := by simpa using hp
  · rw [heq] at hrun
    cases hrun
    exact .inl rfl
  · rw [heq] at hrun
    cases hrun
    unfold fire
    split
    · exact .inl rfl
    · exact .inr rfl

theorem nextPick_flow (s : State) : (nextPick s).2.flow = s.flow := by
  unfold nextPick
  split <;> rfl

theorem nextPick_txlog (s : State) : (nextPick s).2.env.txlog = s.env.txlog := congrArg Prod.snd (nextPick_flow s)

theorem step_txlog (h : step s = .next t) (hp : (nextPick s).1 ∉ [Pick.rst, .fire]) : s.env.txlog <+: t.env.txlog :=
  nextPick_txlog s ▸ runPick_txlog hp _ _ (step_eq_next h).2

/-- Settles O53: every pick but a reset leaves the old log at the head of the new one, and a reset that takes place empties it. -/
theorem transmitLogOnlyGrows : Obligations.TransmitLogOnlyGrows := by
  intro s t hstep
  by_cases hp : (nextPick s).1 ∈ [Pick.rst, .fire]
  case pos =>
    obtain rfl | rfl := step_eq_next_of_reset hstep hp
    · exact .inr ⟨hp, rfl⟩
    · exact .inl ⟨[], by rw [nextPick_txlog, List.append_nil]⟩
  case neg =>
    obtain ⟨bs, hbs⟩ := step_txlog hstep hp
    exact .inl ⟨bs, hbs.symm⟩

end Sys2Proof.Machine
end

section
/-!
Proofs of the statements of 20_memory.md, fourth part: the received bytes keep their order (R60, R61, R135 (b)).
-/

namespace Sys2Proof.Machine

variable {s t u : State}

/-! ### The unread bytes (R121) -/

/-- No unread byte stands in the cell that `head` names. -/
theorem unreadCell_ne_head (hh : s.ring.head < s.params.C) (ht : s.ring.tail < s.params.C) {k : Nat} (hk : k < s.avail) :
    s.unreadCell k ≠ s.ring.head := by
  rw [← unreadCell_avail hh ht]
  intro heq
  have havail : s.avail < s.params.C := Nat.mod_lt _ (by omega)
  have hmod : k ≡ s.avail [MOD s.params.C] := Nat.ModEq.add_left_cancel' s.ring.tail heq
  have := hmod.eq_of_lt_of_lt (by omega) havail
  omega

theorem unread_store_head (hh : s.ring.head < s.params.C) (ht : s.ring.tail < s.params.C) (b : Byte) :
    (s.store s.ring.head b).unread = s.unread :=
  List.map_congr_left fun _ hk => cell_store_other b (unreadCell_ne_head hh ht (List.mem_range.mp hk))

/-- An advance of `head` puts the byte it passes behind the unread ones. -/
theorem unread_setHead_inc (hh : s.ring.head < s.params.C) (ht : s.ring.tail < s.params.C) (hroom : s.full = false) :
    (s.setHead (inc s.params.C s.ring.head)).unread = s.unread ++ [s.cell s.ring.head] := by
  have hlast : s.cell (s.unreadCell s.avail) = s.cell s.ring.head := by rw [unreadCell_avail hh ht]
  rw [← hlast]
  unfold State.unread
  rw [avail_setHead_inc hh ht hroom, List.range_succ, List.map_append]
  rfl

/-- An advance of `tail` consumes the oldest unread byte. -/
theorem unread_setTail_inc (hh : s.ring.head < s.params.C) (ht : s.ring.tail < s.params.C) (hne : s.empty = false) :
    s.unread = s.cell s.ring.tail :: (s.setTail (inc s.params.C s.ring.tail)).unread := by
  have hfirst : s.unreadCell 0 = s.ring.tail := Nat.mod_eq_of_lt ht
  unfold State.unread
  rw [← avail_setTail_inc hh ht hne, List.range_succ_eq_map, List.map_cons, List.map_map, hfirst]
  congr 2
  funext k
  exact congrArg s.cell (unreadCell_setTail_inc s k).symm

/-! ### PUMP (R133) -/

/-- Where nothing is in flight before or after, the stream is what it was if the unread bytes and the endpoint are. -/
theorem stream_of_inFlight_nil (hs : s.inFlight = []) (ht : t.inFlight = []) (hunread : t.unread = s.unread)
    (hrxq : t.env.rxq = s.env.rxq) : t.stream = s.stream := by simp only [State.stream, hs, ht, hunread, hrxq]

theorem inFlight_u1 (hp : s.pump.phase = .run .u1) : s.inFlight = [] := by simp only [State.inFlight, hp]

theorem inFlight_idle (hp : s.pump.phase = .idle) : s.inFlight = [] := by simp only [State.inFlight, hp]

theorem pumpU1_inFlight (s : State) : (pumpU1 s).inFlight = [] := by
  unfold pumpU1
  cases s.full <;> rfl

theorem pumpU2_inFlight (s : State) : (pumpU2 s).inFlight = [] := by
  unfold pumpU2
  split <;> rfl

theorem pumpU1_stream (hs : s.inFlight = []) : (pumpU1 s).stream = s.stream :=
  stream_of_inFlight_nil hs (pumpU1_inFlight s) rfl rfl

theorem pumpU2_stream (hs : s.inFlight = []) : (pumpU2 s).stream = s.stream := by
  refine stream_of_inFlight_nil hs (pumpU2_inFlight s) ?_ ?_ <;>
  · unfold pumpU2
    split <;> rfl

theorem pumpU6_stream (hs : s.inFlight = []) : (pumpU6 s).stream = s.stream := stream_of_inFlight_nil hs rfl rfl rfl

/-- U3 takes the first byte of the endpoint into flight. -/
theorem pumpU3_stream (hs : s.inFlight = []) : Ensures (pumpU3 s) fun t => t.stream = s.stream := fun t ht => by
  obtain ⟨b, rest, hq, rfl⟩ := pumpU3_eq_next ht
  show s.unread ++ [b] ++ rest = s.stream
  simp [State.stream, hs, hq]

/-- U4 stores the byte in flight, which stays in flight until `head` moves (R59). -/
theorem pumpU4_stream (h : Inv s) (hp : s.pump.phase = .run .u4) : Ensures (pumpU4 s) fun t => t.stream = s.stream := fun t ht => by
  obtain ⟨-, rfl⟩ := pumpU4_eq_next ht
  show (s.store s.ring.head s.pump.byte).unread ++ [s.pump.byte] ++ s.env.rxq = s.stream
  simp only [State.stream, State.inFlight, hp, unread_store_head h.head_lt h.tail_lt]

/-- U5 puts the byte in flight behind the unread ones. -/
theorem pumpU5_stream (h : Inv s) (hp : s.pump.phase = .run .u5) : (pumpU5 s).stream = s.stream := by
  obtain ⟨hnext, hroom, hstored⟩ := (pumpInv_u5 hp).mp h.pump
  unfold pumpU5
  rw [hnext]
  show (s.setHead (inc s.params.C s.ring.head)).unread ++ [] ++ s.env.rxq = s.stream
  simp only [State.stream, State.inFlight, hp, unread_setHead_inc h.head_lt h.tail_lt hroom, cell_of_get? hstored, List.append_nil]

theorem pumpMicro_stream (h : Inv s) : Ensures (pumpMicro s) fun t => t.stream = s.stream := by
  unfold pumpMicro
  split
  · exact .next rfl
  cases hp : s.pump.phase with
  | idle =>
    refine .next ?_
    split
    · exact stream_of_inFlight_nil (inFlight_idle hp) rfl rfl rfl
    · rfl
  | run l =>
    cases l with
    | u1 => exact .next (pumpU1_stream (by simp only [State.inFlight, hp]))
    | u2 => exact .next (pumpU2_stream (by simp only [State.inFlight, hp]))
    | u3 => exact pumpU3_stream (by simp only [State.inFlight, hp])
    | u4 => exact pumpU4_stream h hp
    | u5 => exact .next (pumpU5_stream h hp)
    | u6 => exact .next (pumpU6_stream (by simp only [State.inFlight, hp]))

theorem pumpLoop_stream (turns : Nat) : ∀ {s : State}, Inv s → s.pump.phase = .run .u1 →
    Ensures (pumpLoop turns s) fun t => t.stream = s.stream := by
  induction turns with
  | zero => exact fun _ _ => .next rfl
  | succ turns ih =>
    intro s h hp
    have hu1 := pumpU1_stream (inFlight_u1 hp)
    have hu2 := (pumpU2_stream (pumpU1_inFlight s)).trans hu1
    unfold pumpLoop
    split_ifs with hfull hq
    · exact .next ((pumpU6_stream (pumpU1_inFlight s)).trans hu1)
    · obtain ⟨hinv2, hphase⟩ := pumpU2_pumpU1_of_turn h hfull hq
      refine .andThen fun u3 ht3 => .andThen fun u4 ht4 => ?_
      obtain ⟨hinv3, hphase3⟩ := pumpU3_keeps_inv hinv2 hphase u3 ht3
      obtain ⟨hinv4, hphase4⟩ := pumpU4_keeps_inv hinv3 hphase3 u4 ht4
      have hu3 := (pumpU3_stream (pumpU2_inFlight _) u3 ht3).trans hu2
      have hu4 := (pumpU4_stream hinv3 hphase3 u4 ht4).trans hu3
      have hu5 := (pumpU5_stream hinv4 hphase4).trans hu4
      exact (ih (pumpU5_keeps_inv hinv4 hphase4) rfl).mono fun t ht => ht.trans hu5
    · exact .next ((pumpU6_stream (pumpU2_inFlight _)).trans hu2)

theorem execPump_stream (h : Inv s) : Ensures (execPump s) fun t => t.stream = s.stream := by
  unfold execPump
  split
  next hready =>
    have hidle : s.pump.phase = .idle := (pumpReady_iff.mp (Bool.and_eq_true_iff.mp hready).1).1
    have hu0 : (pumpU0 s).stream = s.stream := stream_of_inFlight_nil (inFlight_idle hidle) rfl rfl rfl
    exact (pumpLoop_stream _ (pumpU0_keeps_inv h) rfl).mono fun t ht => ht.trans hu0
  next => exact .next rfl

end Sys2Proof.Machine
end

section
/-!
Proofs of the statements of 20_memory.md, fifth part: the five things that a step may do to the receive stream, pick by pick.
-/

namespace Sys2Proof.Machine

variable {s t u : State} {p : Pick}

/-! ### What a step may do to the stream -/

/-- The step from `s` to `t` consumed the oldest byte `b`. -/
structure Consumes (b : Byte) (s t : State) : Prop where
  stream : s.stream = b :: t.stream
  nonempty : s.empty = false
  tail : t.ring.tail = inc s.params.C s.ring.tail

/-- What follows the read leaves the receive side. -/
theorem Consumes.keeps {b : Byte} (h : Consumes b s t) (hu : u.receiveSide = t.receiveSide) : Consumes b s u where
  stream := by rw [stream_of_receiveSide hu, h.stream]
  nonempty := h.nonempty
  tail := by rw [(receiveSide_eq_iff.mp hu).2.1, h.tail]

/-- What went before the read left the receive side. -/
theorem Consumes.after {b : Byte} (hu : u.receiveSide = s.receiveSide) (h : Consumes b u t) : Consumes b s t := by
  obtain ⟨hparams, hring, -⟩ := receiveSide_eq_iff.mp hu
  have hempty : u.empty = s.empty := by simp only [State.empty, hring]
  exact ⟨stream_of_receiveSide hu ▸ h.stream, hempty ▸ h.nonempty, by rw [h.tail, hparams, hring]⟩

/-- What `StreamMoves` reads of the state in which a pick is taken. -/
def State.streamBefore (s : State) :=
  (s.receiveSide, s.env.rxReleased, s.ports.portR, s.ports.respA, s.ports.respR)

/-- The pick `p`, taken in `s`, keeps the stream; delivers its first byte to APP; puts an arriving packet behind it; is an RB_WRITE of
port R; or is a reset. -/
inductive StreamMoves (p : Pick) (s t : State) : Prop
  | keeps (h : t.stream = s.stream)
  | delivers (b : Byte) (h : Consumes b s t)
      (hto : t.ports.respA = s.ports.respA ++ [.optByte (some b)] ∨ t.ports.respR = s.ports.respR ++ [.opt (some b)] ∨
        t.app = .readA2 (some b))
  | arrives (hfree : s.env.rxReleased = true) (hheld : t.env.rxReleased = false) (h : t.stream = s.stream ++ t.env.rxq)
  | writes (r : RbRequest) (ws : List RbRequest) (hp : p = .rbOp) (hport : s.ports.portR = r :: ws) (hop : r.rbOp = 0b01#2)
      (hunread : t.unread = s.unread ++ [r.rbData]) (hflight : t.inFlight = s.inFlight) (hrxq : t.env.rxq = s.env.rxq)
  | resets (hp : p ∈ [Pick.rst, .fire]) (h : t.stream = [])

namespace StreamMoves

theorem of_carries (h : Carries s t) : StreamMoves p s t := .keeps (stream_of_receiveSide h.receiveSide)

/-- What went before left all that `StreamMoves` reads of the state in which the pick is taken. -/
theorem after (hb : u.streamBefore = s.streamBefore) (h : StreamMoves p u t) : StreamMoves p s t := by
  obtain ⟨hside, hfree, hportR, hrespA, hrespR⟩ : u.receiveSide = s.receiveSide ∧ u.env.rxReleased = s.env.rxReleased ∧
    u.ports.portR = s.ports.portR ∧ u.ports.respA = s.ports.respA ∧ u.ports.respR = s.ports.respR := by
      simpa only [State.streamBefore, Prod.mk.injEq] using hb
  cases h with
  | keeps h => exact .keeps (h.trans (stream_of_receiveSide hside))
  | delivers b h hto =>
    rw [hrespA, hrespR] at hto
    exact .delivers b (h.after hside) hto
  | arrives hu hheld h => exact .arrives (hfree ▸ hu) hheld (stream_of_receiveSide hside ▸ h)
  | writes r ws hp hport hop hunread hflight hrxq =>
    exact .writes r ws hp (hportR ▸ hport) hop (unread_of_receiveSide hside ▸ hunread) (inFlight_of_receiveSide hside ▸ hflight)
      (hrxq.trans (receiveSide_eq_iff.mp hside).2.2.2.2.1)
  | resets hp h => exact .resets hp h

end StreamMoves

/-! ### The Ring Buffer primitives (R116, R118) -/

theorem consumes_setTail (h : Inv s) (hne : s.empty = false) :
    Consumes (s.cell s.ring.tail) s (s.setTail (inc s.params.C s.ring.tail)) where
  stream := by
    show s.unread ++ s.inFlight ++ s.env.rxq = _
    rw [unread_setTail_inc h.head_lt h.tail_lt hne]
    rfl
  nonempty := hne
  tail := rfl

/-- A read answers nothing and changes nothing, or consumes the byte it answers. -/
theorem rbReadByte_consumes {r : Option Byte} (h : Inv s) (hr : rbReadByte s = .ok (r, t)) :
    (r = none ∧ t = s) ∨ ∃ b, r = some b ∧ Consumes b s t ∧ t.ports = s.ports := by
  obtain ⟨-, rfl, rfl⟩ | ⟨hne, -, rfl, rfl⟩ := rbReadByte_eq_ok hr
  · exact .inl ⟨rfl, rfl⟩
  · exact .inr ⟨_, rfl, consumes_setTail h hne, rfl⟩

/-- A write is refused and changes nothing, or puts its byte behind the unread ones. -/
theorem rbWriteByte_stream {b : Byte} {ok : Bool} (h : Inv s) (hw : rbWriteByte b s = .ok (ok, t)) :
    t = s ∨ (t.unread = s.unread ++ [b] ∧ t.inFlight = s.inFlight ∧ t.env.rxq = s.env.rxq) := by
  obtain ⟨-, -, rfl⟩ | ⟨hroom, -, -, rfl⟩ := rbWriteByte_eq_ok hw
  · exact .inl rfl
  · refine .inr ⟨?_, rfl, rfl⟩
    have hadvance := unread_setHead_inc (s := s.store s.ring.head b) h.head_lt h.tail_lt hroom
    have hcell : (s.store s.ring.head b).cell s.ring.head = b := cell_of_get? (Memory.get?_put_same ..)
    rw [unread_store_head h.head_lt h.tail_lt] at hadvance
    exact hadvance.trans (congrArg (fun c => s.unread ++ [c]) hcell)

/-! ### APP (R191) -/

theorem appInv_readD3 {v : Byte} (ha : s.app = .readD3 v) : AppInv s ↔ s.empty = false ∧ s.cell s.ring.tail = v := by
  simp only [AppInv, ha]

theorem readTrigger_ports (s : State) : (readTrigger s).ports = s.ports := by
  unfold readTrigger
  split <;> rfl

/-- A READ delivers on port A what it consumes. -/
theorem execRead_streamMoves (h : Inv s) : Ensures (execRead s) (StreamMoves p s) :=
  .takeApp (.keeps rfl) fun _ => .withResult fun r u hu => by
    obtain ⟨rfl, rfl⟩ | ⟨b, rfl, hb, hports⟩ := rbReadByte_consumes h hu
    · exact .next (.keeps rfl)
    · have hside : (readTrigger u).receiveSide = u.receiveSide := congrArg Prod.fst (readTrigger_flow u)
      refine .next (.delivers b (hb.keeps hside) (.inl ?_))
      show (readTrigger u).ports.respA ++ [_] = _
      rw [readTrigger_ports, hports]

/-- D3 delivers to APP's local the byte that D2 read (R60). -/
theorem appNext_streamMoves (h : Inv s) : Ensures (appNext s) (StreamMoves p s) := by
  by_cases htail : .tail ∈ labelWrites s.app
  case pos =>
    obtain ⟨v, ha⟩ := exists_readD3_of_tail_mem htail
    obtain ⟨hne, rfl⟩ := (appInv_readD3 ha).mp h.app
    unfold appNext
    rw [ha]
    exact .next (.delivers _ ((consumes_setTail h hne).keeps rfl) (.inr (.inr rfl)))
  case neg => exact (appNext_carries htail).mono fun _ => .of_carries

theorem appMicro_streamMoves (h : Inv s) : Ensures (appMicro s) (StreamMoves p s) := by
  unfold appMicro
  split_ifs
  · exact .next (.keeps rfl)
  · exact .takeRequest (.keeps rfl) fun _ _ _ _ _ => .next (.keeps rfl)
  · exact appNext_streamMoves h

/-- Of the commands READ alone reaches the stream. -/
theorem exec_command_streamMoves {i : Instr} (h : Inv s) (hi : i.format = .app) : Ensures (exec i s) (StreamMoves p s) := by
  by_cases htail : .tail ∈ opWrites i
  case pos =>
    obtain rfl : i = .read := by cases i <;> simp_all [opWrites, Instr.format]
    exact execRead_streamMoves h
  case neg =>
    have hbuffer : .buffer ∉ opWrites i := fun hb => by simpa using opWrites_subset_of_command hi hb
    exact (exec_carries hbuffer htail s).mono fun _ => .of_carries

theorem runAppOp_streamMoves (h : Inv s) : Ensures (runAppOp s) (StreamMoves p s) := by
  unfold runAppOp
  split
  · exact .takeRequest (.keeps rfl) fun r ws i _ hi =>
      (exec_command_streamMoves (h.setPortA ws) (decodeApp_format hi)).mono fun _ => .after rfl
  · exact .next (.keeps rfl)

/-! ### Port R -/

/-- RB_WRITE, just taken from port R. -/
theorem execRbWrite_streamMoves {r : RbRequest} {ws : List RbRequest} (h : Inv s) (hport : s.ports.portR = r :: ws)
    (hop : r.rbOp = 0b01#2) : Ensures (execRbWrite r.rbData (s.setPortR ws)) (StreamMoves .rbOp s) :=
  .takeRb (.keeps rfl) fun _ => .withResult fun ok u hu => by
    obtain rfl | ⟨hunread, hflight, hrxq⟩ := rbWriteByte_stream (h.setPortR ws) hu
    · exact .next (.keeps rfl)
    · exact .next (.writes r ws rfl hport hop hunread hflight hrxq)

/-- RB_READ, just taken from port R. -/
theorem execRbRead_streamMoves (h : Inv s) (ws : List RbRequest) : Ensures (execRbRead (s.setPortR ws)) (StreamMoves p s) :=
  .takeRb (.keeps rfl) fun _ => .withResult fun r u hu => by
    obtain ⟨rfl, rfl⟩ | ⟨b, rfl, ⟨hstream, hne, htail⟩, hports⟩ := rbReadByte_consumes (h.setPortR ws) hu
    · exact .next (.keeps rfl)
    · have hresp : u.ports.respR ++ [.opt (some b)] = s.ports.respR ++ [.opt (some b)] := by rw [hports]; rfl
      exact .next (.delivers b ⟨hstream, hne, htail⟩ (.inr (.inl hresp)))

theorem runRbOp_streamMoves (h : Inv s) : Ensures (runRbOp s) (StreamMoves .rbOp s) := by
  unfold runRbOp
  split
  next => exact .next (.keeps rfl)
  next r ws hport =>
    split
    · have hcarries {i : Instr} (hbuffer : .buffer ∉ opWrites i) (htail : .tail ∉ opWrites i) :
          Ensures (exec i (s.setPortR ws)) (StreamMoves .rbOp s) :=
        (exec_carries hbuffer htail _).mono fun t ht => .of_carries (.after (t := s.setPortR ws) rfl ht)
      rw [decodeRb_eq_ite]
      split_ifs with h0 h1 h2
      · exact hcarries (by simp [opWrites]) (by simp [opWrites])
      · exact execRbWrite_streamMoves h hport h1
      · exact execRbRead_streamMoves h ws
      · exact hcarries (by simp [opWrites]) (by simp [opWrites])
    · exact .next (.keeps rfl)

/-! ### ENV (R67) -/

/-- A packet arrives at an endpoint that holds nothing, so that its bytes join the stream behind all others. -/
theorem arrive_streamMoves (h : Inv s) (bs : Bytes) : StreamMoves p s (arrive bs s) := by
  unfold arrive
  split
  next hfree =>
    refine .arrives hfree rfl ?_
    show s.unread ++ s.inFlight ++ bs = s.unread ++ s.inFlight ++ s.env.rxq ++ bs
    rw [h.endpoint hfree, List.append_nil]
  next => exact .keeps rfl

theorem drawPacket_streamBefore (s : State) : (drawPacket s).2.streamBefore = s.streamBefore := by
  unfold drawPacket
  split <;> rfl

theorem arriveNext_streamMoves (h : Inv s) : StreamMoves p s (arriveNext s) := by
  unfold arriveNext
  split
  · exact (arrive_streamMoves h.drawPacket _).after (drawPacket_streamBefore s)
  · exact .keeps rfl

theorem presentUsb_streamMoves (h : Inv s) (e : UsbEvent) : StreamMoves p s (presentUsb e s) := by
  obtain ⟨-, heq⟩ | ⟨-, heq⟩ := presentUsb_cases e s
  · exact heq ▸ arriveNext_streamMoves h
  · exact heq ▸ .keeps rfl

theorem stream_resetBlock (s : State) : s.resetBlock.stream = [] := by
  have havail : s.resetBlock.avail = 0 := Nat.mod_self s.params.C
  have hunread : s.resetBlock.unread = [] := by rw [State.unread, havail]; rfl
  simp only [State.stream, hunread]
  rfl

theorem fire_streamMoves (s : State) : StreamMoves .fire s (fire s) := by
  unfold fire
  split
  · exact .resets (by simp) (stream_resetBlock s)
  · exact .keeps rfl

/-! ### Picks and steps -/

theorem runPick_streamMoves (h : Inv s) (p : Pick) : Ensures (runPick p s) (StreamMoves p s) := by
  cases p with
  | appOp => exact runAppOp_streamMoves h
  | appMicro => exact appMicro_streamMoves h
  | pumpOp =>
    rw [runPick_pumpOp]
    exact (execPump_stream h).mono fun _ => .keeps
  | pumpMicro => exact (pumpMicro_stream h).mono fun _ => .keeps
  | ctrlOp => exact (runCtrlOp_carries s).mono fun _ => .of_carries
  | ctrlMicro => exact (ctlMicro_carries s).mono fun _ => .of_carries
  | usbOp => exact (runUsbOp_carries s).mono fun _ => .of_carries
  | rbOp => exact runRbOp_streamMoves h
  | presentUsb e => exact .next (presentUsb_streamMoves h e)
  | packet => exact .next (arriveNext_streamMoves h)
  | pkt bs => exact .next (arrive_streamMoves h bs)
  | presentApp | presentRb | data | tick => exact .next (.keeps rfl)
  | fire => exact .next (fire_streamMoves s)
  | rst => exact .next (.resets (by simp) (stream_resetBlock s))

theorem nextPick_streamBefore (s : State) : (nextPick s).2.streamBefore = s.streamBefore := by
  unfold nextPick
  split <;> rfl

theorem step_streamMoves (h : Inv s) (hstep : step s = .next t) : StreamMoves (nextPick s).1 s t :=
  (runPick_streamMoves h.nextPick _ _ (step_eq_next hstep).2).after (nextPick_streamBefore s)

/-- Settles O58: the micro-steps of a pass hand a byte from the endpoint to the buffer within the stream, and of the others only a
read, an arrival, an RB_WRITE of port R and a reset reach it. -/
theorem receivedBytesKeepTheirOrder : Obligations.ReceivedBytesKeepTheirOrder := by
  intro s t h hstep
  cases step_streamMoves h hstep with
  | keeps h => exact .inl h
  | delivers b h hto => exact .inr (.inl ⟨b, h.stream, h.nonempty, h.tail, hto⟩)
  | arrives hfree hheld h => exact .inr (.inr (.inl ⟨hfree, hheld, h⟩))
  | writes r ws hp hport hop hunread hflight hrxq =>
    exact .inr (.inr (.inr (.inl ⟨r, ws, hp, hport, hop, hunread, hflight, hrxq⟩)))
  | resets hp h => exact .inr (.inr (.inr (.inr ⟨hp, h⟩)))

end Sys2Proof.Machine
end

section
/-!
Proofs of the statements of 20_memory.md, sixth part: an operation run whole is its micro-steps one after another (R56).
-/

namespace Sys2Proof.Machine

variable {s t : State} {o : Outcome} {f : State → Outcome}

/-! ### Runs of one agent -/

/-- From `s` the outcome `o` is that of some number of micro-steps `f`, with no other agent between them. -/
def Reaches (f : State → Outcome) (s : State) (o : Outcome) : Prop := ∃ n, repeatMicro f n s = o

namespace Reaches

theorem here (s : State) : Reaches f s (.next s) := ⟨0, rfl⟩

/-- One micro-step, and the run that follows it, if it does not stop. -/
theorem andThen {g : State → Outcome} (h : f s = o) (hg : Ensures o fun u => Reaches f u (g u)) : Reaches f s (andThen o g) := by
  cases o with
  | next u =>
    obtain ⟨n, hn⟩ := hg u rfl
    exact ⟨n + 1, by simp [repeatMicro, h, hn]⟩
  | fault e => exact ⟨1, by simp [repeatMicro, h]⟩
  | refused e => exact ⟨1, by simp [repeatMicro, h]⟩

theorem step (h : f s = .next t) (ht : Reaches f t o) : Reaches f s o :=
  andThen (g := fun _ => o) h (.next ht)

theorem last (h : f s = o) : Reaches f s o := by
  cases o <;> exact ⟨1, by simp [repeatMicro, h]⟩

end Reaches

/-! ### Control requests (R150 to R168) -/

theorem ctlMicro_t2 (hc : s.ctl.phase = .dispatch .t2) : ctlMicro s = .next (ctlT2 s) := by simp only [ctlMicro, hc]

theorem ctlMicro_waitFifo (hc : s.ctl.phase = .waitFifo) : ctlMicro s = .next (ctlS2 s) := by simp only [ctlMicro, hc]

theorem ctlS2_of_complete (h : s.params.slcThreshold ≤ s.fifoByteCount) : ctlS2 s = s.setCtlPhase (.dispatch .s3) := by
  simp only [ctlS2, h, if_true]

/-- SET_LINE_CODING from S3 is S3, S4 and S5; S3 may stop. -/
theorem slcFinish_reaches (hc : s.ctl.phase = .dispatch .s3) : Reaches ctlMicro s (slcFinish s) := by
  have hs3 : ctlMicro s = ctlS3 s := by simp only [ctlMicro, hc]
  refine .andThen hs3 fun t ht => ?_
  obtain ⟨d, q, -, rfl⟩ := ctlS3_eq_next ht
  exact .step rfl (.last rfl)

/-- SET_LINE_CODING from S2 is S2 and, where the data stage is there, the rest; it goes on waiting where it is not. -/
theorem slcResume_reaches (hc : s.ctl.phase = .waitFifo) : Reaches ctlMicro s (slcResume s) := by
  unfold slcResume
  split
  next hdata =>
    rw [ctlS2_of_complete hdata]
    exact .step ((ctlMicro_waitFifo hc).trans (by rw [ctlS2_of_complete hdata])) (slcFinish_reaches rfl)
  next => exact .here s

/-- T2, then the micro-steps of the request that the packet in hand selects. -/
theorem request_reaches (hc : s.ctl.phase = .dispatch .t2) : Reaches ctlMicro s (exec (decodeSetup s.params s.ctl.setup) s) := by
  have hready : s.ctlReady = true := ctlReady_iff.mpr hc
  refine .step (ctlMicro_t2 hc) ?_
  unfold ctlT2 decodeSetup
  split_ifs
  · have hexec v x n : exec (.getLineCoding v x n) s = .next ((ctlG1 s).ctlReturn true) := by
      simp only [exec, execGetLineCoding, takeCtl_ready hready]
    rw [hexec]
    exact .step rfl (.last rfl)
  · have hexec v x n : exec (.setLineCoding v x n) s = slcResume (ctlS1 s) := by
      simp only [exec, execSetLineCoding, takeCtl_ready hready]
    rw [hexec]
    exact .step rfl (slcResume_reaches rfl)
  · have hexec v x n : exec (.setControlLineState v x n) s = .next ((ctlL2 (ctlL1 (lowByte v) s)).ctlReturn true) := by
      simp only [exec, execSetControlLineState, takeCtl_ready hready]
    rw [hexec]
    exact .step rfl (.step rfl (.last rfl))
  · have hexec w : exec (.ctrlUnhandled w) s = .next (s.ctlReturn false) := by
      simp only [exec, execCtrlUnhandled, takeCtl_ready hready]
    rw [hexec]
    exact .last rfl

/-- Settles O43, by the row of R84 that the packet matches. -/
theorem requestIsItsMicroSteps : Obligations.RequestIsItsMicroSteps := fun _ hc => request_reaches hc

/-! ### APP's label and the calls of its micro-steps -/

theorem readTrigger_setApp (s : State) (ph ph' : AppPhase) :
    (readTrigger (s.setApp ph)).setApp ph' = (readTrigger s).setApp ph' := by
  have hdata : (s.setApp ph).isEndpointDataAvailable .rx = s.isEndpointDataAvailable .rx := rfl
  unfold readTrigger
  rw [hdata]
  split <;> rfl

theorem sampleEarly_setApp (s : State) (ph : AppPhase) :
    sampleEarly (s.setApp ph) = ((sampleEarly s).1, (sampleEarly s).2.setApp ph) := by
  unfold sampleEarly drawEarly
  rw [State.setApp_drive]
  cases s.drive.earlyDraws <;> rfl

theorem isOpenA2_setApp (s : State) (ph : AppPhase) : isOpenA2 (s.setApp ph) = isOpenA2 s := by
  unfold isOpenA2
  rw [sampleEarly_setApp]
  rfl

theorem writeResult_setApp (r : SendAnswer) (s : State) (ph : AppPhase) : writeResult r (s.setApp ph) = writeResult r s := by
  unfold writeResult
  split <;> rfl

theorem sendBytes_setApp (payload : Bytes) (s : State) (ph : AppPhase) :
    sendBytes payload (s.setApp ph) = (sendBytes payload s).map fun d => (d.1, d.2.setApp ph) := by
  simp only [sendBytes, drawSend, State.setApp_drive]
  cases s.drive.sendAnswers with
  | nil => rfl
  | cons a rest =>
    dsimp only
    split_ifs <;> rfl

theorem readTrigger_ctl (s : State) : (readTrigger s).ctl = s.ctl := by
  unfold readTrigger
  split <;> rfl

theorem sampleEarly_ctl (s : State) : (sampleEarly s).2.ctl = s.ctl := by
  unfold sampleEarly drawEarly
  split <;> rfl

theorem sendBytes_ctl {payload : Bytes} {r : SendAnswer} (h : sendBytes payload s = .ok (r, t)) : t.ctl = s.ctl := by
  obtain ⟨u, hu, rfl⟩ := sendBytes_eq_ok h
  obtain ⟨-, ⟨-, -, rfl⟩ | ⟨rest, -, rfl⟩⟩ := drawSend_eq_ok hu <;> rfl

/-! ### Commands of port A (R183) -/

/-- With no stall an APP at a label takes the label's micro-step. -/
theorem appMicro_setApp {ph : AppPhase} (hc : s.ctl.phase ≠ .waitFifo) (hph : ph ≠ .idle) (h : appNext (s.setApp ph) = o) :
    appMicro (s.setApp ph) = o := by
  have hstall : (s.setApp ph).stall = false := Bool.eq_false_iff.mpr (mt stall_iff.mp hc)
  have hbusy : (s.setApp ph).app ≠ .idle := hph
  simpa only [appMicro, hstall, Bool.false_eq_true, if_false, if_neg hbusy] using h

theorem appMicro_takes {r : AppRequest} {ws : List AppRequest} {i : Instr} (ha : s.app = .idle) (hc : s.ctl.phase ≠ .waitFifo)
    (hport : s.ports.portA = r :: ws) (hi : decodeApp s.params r = .ok i) :
    appMicro s = .next ((s.setPortA ws).setApp (.taken i)) := by
  have hstall : s.stall = false := Bool.eq_false_iff.mpr (mt stall_iff.mp hc)
  simp only [appMicro, hstall, Bool.false_eq_true, if_false, if_pos ha, takeRequest, hport, hi]

section
variable (ha : s.app = .idle) (hc : s.ctl.phase ≠ .waitFifo)
include ha hc

/-- A1 and, where there is a byte, K2, which may stop. -/
theorem peek_reaches : Reaches appMicro (s.setApp (.taken .peek)) (exec .peek s) := by
  have hready : s.appReady = true := appReady_iff.mpr ⟨ha, hc⟩
  have hA1 : appMicro (s.setApp (.taken .peek)) = .next (if s.empty then s.appReturn (.optByte none) else s.setApp .peekK2) :=
    appMicro_setApp hc nofun rfl
  have hK2 : appMicro (s.setApp .peekK2) = withTailByte s fun v => s.appReturn (.optByte (some v)) := appMicro_setApp hc nofun rfl
  simp only [exec, execPeek, takeApp_ready hready, rbPeekByte]
  cases he : s.empty with
  | true =>
    rw [he] at hA1
    exact .last hA1
  | false =>
    rw [he] at hA1
    refine .step hA1 (.last (hK2.trans ?_))
    unfold withTailByte
    cases s.memRead s.ring.tail <;> rfl

omit ha in
/-- D3 and A2 to A4: `tail` is moved, a pass is asked for, the byte is answered. -/
theorem readD3_reaches (v : Byte) : Reaches appMicro (s.setApp (.readD3 v))
    (.next ((readTrigger (s.setTail (inc s.params.C s.ring.tail))).appReturn (.optByte (some v)))) := by
  set t := s.setTail (inc s.params.C s.ring.tail)
  have hD3 : appMicro (s.setApp (.readD3 v)) = .next (t.setApp (.readA2 (some v))) := appMicro_setApp hc nofun rfl
  have hA2 : appMicro (t.setApp (.readA2 (some v))) = .next (t.setApp (.readA3 v)) := appMicro_setApp hc nofun rfl
  have hA3 : appMicro (t.setApp (.readA3 v)) = .next ((readTrigger t).setApp (.readA4 v)) :=
    appMicro_setApp hc nofun (congrArg Host.Outcome.next (readTrigger_setApp t (.readA3 v) (.readA4 v)))
  have hc4 : (readTrigger t).ctl.phase ≠ .waitFifo := by rwa [readTrigger_ctl]
  exact .step hD3 (.step hA2 (.step hA3 (.last (appMicro_setApp hc4 nofun rfl))))

/-- A1 and, where there is a byte, D2, which may stop, D3 and A2 to A4; A2 alone where there is none (R191). -/
theorem read_reaches : Reaches appMicro (s.setApp (.taken .read)) (exec .read s) := by
  have hready : s.appReady = true := appReady_iff.mpr ⟨ha, hc⟩
  have hA1 : appMicro (s.setApp (.taken .read)) = .next (s.setApp (if s.empty then .readA2 none else .readD2)) :=
    appMicro_setApp hc nofun rfl
  have hD2 : appMicro (s.setApp .readD2) = withTailByte s fun v => s.setApp (.readD3 v) := appMicro_setApp hc nofun rfl
  simp only [exec, execRead, takeApp_ready hready, rbReadByte]
  cases he : s.empty with
  | true =>
    rw [he] at hA1
    exact .step hA1 (.last (appMicro_setApp hc nofun rfl))
  | false =>
    rw [he] at hA1
    refine .step hA1 ?_
    unfold withTailByte at hD2
    cases hv : s.memRead s.ring.tail with
    | error e =>
      rw [hv] at hD2
      exact .last hD2
    | ok v =>
      rw [hv] at hD2
      exact .step hD2 (readD3_reaches hc v)

/-- A1, which may stop, and A2 (R197). -/
theorem write_reaches (payload : Bytes) : Reaches appMicro (s.setApp (.taken (.write payload))) (exec (.write payload) s) := by
  have hready : s.appReady = true := appReady_iff.mpr ⟨ha, hc⟩
  have hA1 : appMicro (s.setApp (.taken (.write payload))) =
      withResult (sendBytes payload (s.setApp (.taken (.write payload)))) fun r t => .next (t.setApp (.writeA2 r)) :=
    appMicro_setApp hc nofun rfl
  rw [sendBytes_setApp] at hA1
  simp only [exec, execWrite, takeApp_ready hready]
  cases hsend : sendBytes payload s with
  | error e =>
    rw [hsend] at hA1
    exact .last hA1
  | ok d =>
    obtain ⟨r, u⟩ := d
    rw [hsend] at hA1
    have hcu : u.ctl.phase ≠ .waitFifo := by rwa [sendBytes_ctl hsend]
    have hA2 : appMicro (u.setApp (.writeA2 r)) = .next (writeResult r u) :=
      appMicro_setApp hcu nofun (congrArg Host.Outcome.next (writeResult_setApp r u (.writeA2 r)))
    exact .step hA1 (.last hA2)

/-- A1 during the hold-off, and A1 to A3 after it (R200). -/
theorem isOpen_reaches : Reaches appMicro (s.setApp (.taken .isOpen)) (exec .isOpen s) := by
  have hready : s.appReady = true := appReady_iff.mpr ⟨ha, hc⟩
  have hA1 : appMicro (s.setApp (.taken .isOpen)) =
      .next (if s.millis < s.params.bootHoldoffMs then s.appReturn (.flag false) else s.setApp .isOpenA2) :=
    appMicro_setApp hc nofun rfl
  have hA2 : appMicro (s.setApp .isOpenA2) = .next (isOpenA2 s) :=
    appMicro_setApp hc nofun (congrArg Host.Outcome.next (isOpenA2_setApp s .isOpenA2))
  simp only [exec, execIsOpen, takeApp_ready hready]
  by_cases hhold : s.millis < s.params.bootHoldoffMs
  · rw [if_pos hhold] at hA1 ⊢
    exact .last hA1
  · rw [if_neg hhold] at hA1 ⊢
    have hc3 : (sampleEarly s).2.ctl.phase ≠ .waitFifo := by rwa [sampleEarly_ctl]
    exact .step hA1 (.step hA2 (.last (appMicro_setApp hc3 nofun rfl)))

/-- The micro-steps of a command in hand, from its first to its end. -/
theorem command_reaches {i : Instr} (hi : i.format = .app) : Reaches appMicro (s.setApp (.taken i)) (exec i s) := by
  have hready : s.appReady = true := appReady_iff.mpr ⟨ha, hc⟩
  have hA1 : appMicro (s.setApp (.taken i)) = appA1 i (s.setApp (.taken i)) := appMicro_setApp hc nofun rfl
  cases i with
  | peek => exact peek_reaches ha hc
  | read => exact read_reaches ha hc
  | write payload => exact write_reaches ha hc payload
  | isOpen => exact isOpen_reaches ha hc
  | openPort | openCfg | closePort | avail | flush | getWerr | clrWerr | appReserved =>
    refine .last (hA1.trans ?_)
    simp only [exec, execOpenPort, execOpenCfg, execClosePort, execAvail, execFlush, execGetWerr, execClrWerr, execAppReserved,
      takeApp_ready hready]
    rfl
  | rbAvail | rbWrite | rbRead | rbPeek | rxReady | pump | setup | getLineCoding | setLineCoding | setControlLineState
  | ctrlUnhandled => cases hi

end

/-- Settles O50: APP takes the command, and the rest is the micro-steps of the command in hand. -/
theorem commandIsItsMicroSteps : Obligations.CommandIsItsMicroSteps := fun s _ ws _ ha hc hport hi =>
  Reaches.step (appMicro_takes ha hc hport hi) (command_reaches (s := s.setPortA ws) ha hc (decodeApp_format hi))

end Sys2Proof.Machine
end

section
/-!
Proofs of the statements of 20_memory.md, last part: a step runs the operation that its pick's word decodes to (R56, R80, R90), and data
arrival and Tick (R68, R70).
-/

namespace Sys2Proof.Machine

variable {s : State} {i : Instr} {rest : List Pick}

/-- A listed pick is run on the state with it taken. -/
theorem step_listed {p : Pick} (hok : s.params.ok = true) (hp : s.drive.schedule = p :: rest) :
    step s = runPick p { s with drive := { s.drive with schedule := rest } } := by rw [step_of_ok hok, nextPick_listed hp]

theorem nextPick_free (h : s.drive.schedule = []) : nextPick s = (Config.freePick s.drive.draws, s.countDraw) := by
  simp [nextPick, h]

/-! ### Picks that run the word of a port -/

theorem runAppOp_of_decode {r : AppRequest} {ws : List AppRequest} (hready : s.appReady = true) (hport : s.ports.portA = r :: ws)
    (hi : decode s.params (.app r) = .ok i) : runAppOp s = exec i (s.setPortA ws) := by
  have hi : decodeApp s.params r = .ok i := hi
  simp only [runAppOp, hready, if_true, takeRequest, hport, hi]

theorem usbTakeable_eq_false {e : UsbEvent} (hsetup : e.uEv = 0b10#2) (hbusy : s.ctl.phase ≠ .idle) : usbTakeable e s = false := by
  simp [usbTakeable, hsetup, hbusy]

theorem usbTakeable_eq_true {e : UsbEvent} (h : e.uEv = 0b10#2 → s.ctl.phase = .idle) : usbTakeable e s = true := by
  by_cases hsetup : e.uEv = 0b10#2
  · simp [usbTakeable, h hsetup]
  · simp [usbTakeable, hsetup]

/-- An event is taken past every SETUP that waits before it (R213). -/
theorem runUsbOp_of_decode {waits ws : List UsbEvent} {e : UsbEvent} (hport : s.ports.portU = waits ++ e :: ws)
    (hwaits : ∀ x ∈ waits, usbTakeable x s = false) (he : usbTakeable e s = true) (hi : decode s.params (.usb e) = .ok i) :
    runUsbOp s = exec i (s.setPortU (waits ++ ws)) := by
  have hi : decodeUsb e = .ok i := hi
  have hfirst := firstTakeable_append (ok := fun x => usbTakeable x s) (post := ws) hwaits he
  simp only [runUsbOp, hport, hfirst, hi]

theorem runRbOp_of_decode {r : RbRequest} {ws : List RbRequest} (hready : rbReady r s = true) (hport : s.ports.portR = r :: ws)
    (hi : decode s.params (.rb r) = .ok i) : runRbOp s = exec i (s.setPortR ws) := by
  obtain rfl : decodeRb r = i := by simpa [decode] using hi
  simp only [runRbOp, hport, hready, if_true]

theorem rbReady_of_idle {r : RbRequest} (hc : s.ctl.phase ≠ .waitFifo)
    (hidle : if r.rbOp = 0b01#2 then s.pump.phase = .idle else s.app = .idle) : rbReady r s = true := by
  unfold rbReady
  split at hidle
  next hop => rw [if_pos hop, pumpReady_iff]; exact ⟨hidle, hc⟩
  next hop => rw [if_neg hop, appReady_iff]; exact ⟨hidle, hc⟩

theorem runCtrlOp_of_decode (hready : s.ctlReady = true) (hi : decode s.params (.setup s.ctl.setup) = .ok i) :
    runCtrlOp s = exec i s := by
  obtain rfl : decodeSetup s.params s.ctl.setup = i := by simpa [decode] using hi
  simp only [runCtrlOp, hready, if_true]

theorem runPumpOp_of_decode (hready : s.pumpReady = true) (hi : decode s.params (.trig s.pump.req) = .ok i) :
    runPumpOp s = exec i s := by simp only [runPumpOp, hready, if_true, hi]

/-- Settles O14: a listed pick is run, and each port's pick runs what the word taken decodes to. -/
theorem stepRunsTheDecodedOperation : Obligations.StepRunsTheDecodedOperation := by
  intro s rest i hok s'
  refine ⟨?app, ?usb, ?rb, ?ctrl, ?pump, fun p hp => step_listed hok hp, ?free⟩
  case app =>
    intro r ws hp ha hc hport hi
    exact (step_listed hok hp).trans (runAppOp_of_decode (s := s') (appReady_iff.mpr ⟨ha, hc⟩) hport hi)
  case usb =>
    intro waits e ws hp hport hwaits he hi
    exact (step_listed hok hp).trans (runUsbOp_of_decode (s := s') hport
      (fun x hx => usbTakeable_eq_false (hwaits x hx).1 (hwaits x hx).2) (usbTakeable_eq_true he) hi)
  case rb =>
    intro r ws hp hport hc hidle hi
    exact (step_listed hok hp).trans (runRbOp_of_decode (s := s') (rbReady_of_idle hc hidle) hport hi)
  case ctrl =>
    intro hp hc hi
    exact (step_listed hok hp).trans (runCtrlOp_of_decode (s := s') (ctlReady_iff.mpr hc) hi)
  case pump =>
    intro hp hidle hc hi
    exact (step_listed hok hp).trans (runPumpOp_of_decode (s := s') (pumpReady_iff.mpr ⟨hidle, hc⟩) hi)
  case free =>
    intro hnone
    have hdraw : (nextPick s).2 = s.countDraw := congrArg Prod.snd (nextPick_free hnone)
    exact ⟨(nextPick s).1, (step_of_ok hok).trans (congrArg _ hdraw)⟩

/-- Settles O55: the picks are enabled in every state, and each writes one field of the collaborators. -/
theorem dataArrivalAndTick : Obligations.DataArrivalAndTick := fun _ _ hok =>
  ⟨fun _ hp => step_listed hok hp, fun hp => step_listed hok hp⟩

end Sys2Proof.Machine
end

section
/-!
Proofs of the statements of 30_encoding.md, first part: the fields of a SETUP packet (R81), and the dispatch by match and mask (R84, R151).
-/

namespace Sys2Proof

/-! ### Fields side by side -/

/-- Two words laid side by side are the same only field by field. -/
theorem bitVec_append_inj {m n : Nat} {a c : BitVec m} {b d : BitVec n} : a ++ b = c ++ d ↔ a = c ∧ b = d := by
  constructor
  · intro h
    exact ⟨by simpa [BitVec.extractLsb'_append_eq_left] using congrArg (BitVec.extractLsb' n m) h,
      by simpa [BitVec.extractLsb'_append_eq_right] using congrArg (BitVec.extractLsb' 0 n) h⟩
  · rintro ⟨rfl, rfl⟩
    rfl

section
variable (t r : Byte) (v x n : BitVec 16)

@[simp] theorem bmRequestType_packFields : bmRequestType (packFields t r v x n) = t := BitVec.extractLsb'_append_eq_right

@[simp] theorem bRequest_packFields : bRequest (packFields t r v x n) = r := by
  unfold bRequest packFields
  rw [BitVec.extractLsb'_append_eq_of_le (by decide), BitVec.extractLsb'_append_eq_right]

@[simp] theorem wValue_packFields : wValue (packFields t r v x n) = v := by
  unfold wValue packFields
  rw [BitVec.extractLsb'_append_eq_of_le (by decide), BitVec.extractLsb'_append_eq_of_le (by decide),
    BitVec.extractLsb'_append_eq_right]

@[simp] theorem wIndex_packFields : wIndex (packFields t r v x n) = x := by
  unfold wIndex packFields
  rw [BitVec.extractLsb'_append_eq_of_le (by decide), BitVec.extractLsb'_append_eq_of_le (by decide),
    BitVec.extractLsb'_append_eq_of_le (by decide), BitVec.extractLsb'_append_eq_right]

@[simp] theorem wLength_packFields : wLength (packFields t r v x n) = n := by
  unfold wLength packFields
  rw [BitVec.extractLsb'_append_eq_of_le (by decide), BitVec.extractLsb'_append_eq_of_le (by decide),
    BitVec.extractLsb'_append_eq_of_le (by decide), BitVec.extractLsb'_append_eq_left]

end

/-- The five fields are the whole packet: no bit of it lies between them. -/
theorem packFields_fields (w : SetupPacket) :
    packFields (bmRequestType w) (bRequest w) (wValue w) (wIndex w) (wLength w) = w := by
  unfold packFields bmRequestType bRequest wValue wIndex wLength
  rw [BitVec.extractLsb'_append_extractLsb'_eq_extractLsb' (by decide), BitVec.extractLsb'_append_extractLsb'_eq_extractLsb' (by decide),
    BitVec.extractLsb'_append_extractLsb'_eq_extractLsb' (by decide), BitVec.extractLsb'_append_extractLsb'_eq_extractLsb' (by decide)]
  exact BitVec.extractLsb'_eq_self

/-- The low sixteen bits of a packet are its two codes, the request code above the request type. -/
theorem and_mask_eq_codes (w : SetupPacket) : w &&& 0xFFFF#64 = 0#48 ++ (bRequest w ++ bmRequestType w) :=
  calc w &&& 0xFFFF#64
    _ = (w.extractLsb' 16 48 ++ w.extractLsb' 0 16) &&& (0#48 ++ 0xFFFF#16) := by
      rw [BitVec.extractLsb'_append_extractLsb'_eq_extractLsb' (by decide)]
      exact congrArg (· &&& _) BitVec.extractLsb'_eq_self.symm
    _ = 0#48 ++ w.extractLsb' 0 16 := by
      rw [BitVec.and_append, BitVec.and_zero]
      exact congrArg _ BitVec.and_allOnes
    _ = 0#48 ++ (bRequest w ++ bmRequestType w) :=
      congrArg _ (BitVec.extractLsb'_append_extractLsb'_eq_extractLsb' (start₁ := 0) (len₁ := 8) rfl).symm

/-- A test of the two codes is one match under the mask 0xFFFF (R84). -/
theorem codes_iff_match (w : SetupPacket) (t r : Byte) :
    bmRequestType w = t ∧ bRequest w = r ↔ w &&& 0xFFFF#64 = 0#48 ++ (r ++ t) := by
  rw [and_mask_eq_codes, BitVec.append_right_inj, bitVec_append_inj, and_comm]

/-- Settles O4: with the default codes each row's test of two bytes is its match under the mask. -/
theorem setupRowsByMatchAndMask : Obligations.SetupRowsByMatchAndMask := fun _ _ w =>
  if_congr (codes_iff_match w 0xA1#8 0x21#8) rfl <|
    if_congr (codes_iff_match w 0x21#8 0x20#8) rfl <|
      if_congr (codes_iff_match w 0x21#8 0x22#8) rfl rfl

/-! ### The dispatch and its inverse (R84, R151) -/

section
variable {p : Params} {w : SetupPacket}

theorem unrecognised_iff : unrecognised p w = true ↔
    ¬(bmRequestType w = p.rtD2H ∧ bRequest w = p.brGLC) ∧ ¬(bmRequestType w = p.rtH2D ∧ bRequest w = p.brSLC) ∧
      ¬(bmRequestType w = p.rtH2D ∧ bRequest w = p.brSCLS) := by
  simp [unrecognised, hasCodes, bmRequestType, bRequest, and_assoc, imp_iff_not_or]

theorem wf_setLineCoding_iff {v x n : BitVec 16} :
    (Instr.setLineCoding v x n).wf p = true ↔ ¬(p.rtH2D = p.rtD2H ∧ p.brSLC = p.brGLC) := by
  simp [Instr.wf, imp_iff_not_or]

theorem wf_setControlLineState_iff {v x n : BitVec 16} :
    (Instr.setControlLineState v x n).wf p = true ↔
      ¬(p.rtH2D = p.rtD2H ∧ p.brSCLS = p.brGLC) ∧ ¬(p.rtH2D = p.rtH2D ∧ p.brSCLS = p.brSLC) := by
  simp [Instr.wf, imp_iff_not_or]

/-- The dispatch of a packet given by its fields looks at the two codes alone. -/
theorem decodeSetup_packFields (p : Params) (t r : Byte) (v x n : BitVec 16) : decodeSetup p (packFields t r v x n) =
    if t = p.rtD2H ∧ r = p.brGLC then .getLineCoding v x n
    else if t = p.rtH2D ∧ r = p.brSLC then .setLineCoding v x n
    else if t = p.rtH2D ∧ r = p.brSCLS then .setControlLineState v x n
    else .ctrlUnhandled (packFields t r v x n) := by
  simp only [decodeSetup, bmRequestType_packFields, bRequest_packFields, wValue_packFields, wIndex_packFields, wLength_packFields]

theorem decodeSetup_of_unrecognised (h : unrecognised p w = true) : decodeSetup p w = .ctrlUnhandled w := by
  obtain ⟨hget, hset, hline⟩ := unrecognised_iff.mp h
  rw [decodeSetup, if_neg hget, if_neg hset, if_neg hline]

/-- A packet whose codes are known, put together again from its fields. -/
theorem packFields_of_codes {t r : Byte} (h : bmRequestType w = t ∧ bRequest w = r) :
    packFields t r (wValue w) (wIndex w) (wLength w) = w := by
  obtain ⟨rfl, rfl⟩ := h
  exact packFields_fields w

/-- What a packet selects is well formed, and is encoded as the packet. -/
theorem decodeSetup_wf_encode (p : Params) (w : SetupPacket) :
    (decodeSetup p w).wf p = true ∧ encode p (decodeSetup p w) = .setup w := by
  unfold decodeSetup
  split_ifs with hget hset hline
  case pos => exact ⟨rfl, congrArg PortWord.setup (packFields_of_codes hget)⟩
  case pos =>
    obtain ⟨htype, hcode⟩ := hset
    rw [htype, hcode] at hget
    exact ⟨wf_setLineCoding_iff.mpr hget, congrArg PortWord.setup (packFields_of_codes ⟨htype, hcode⟩)⟩
  case pos =>
    obtain ⟨htype, hcode⟩ := hline
    rw [htype, hcode] at hget hset
    exact ⟨wf_setControlLineState_iff.mpr ⟨hget, hset⟩, congrArg PortWord.setup (packFields_of_codes ⟨htype, hcode⟩)⟩
  case neg => exact ⟨unrecognised_iff.mpr ⟨hget, hset, hline⟩, rfl⟩

end

end Sys2Proof
end

section
/-!
Proofs of the statements of 30_encoding.md, second part: the decoder and the encoder are inverse, on the well-formed operations (R80 to R94)
and on the words in canonical form (R91, R92, R94).
-/

namespace Sys2Proof

variable {p : Params} {i : Instr}

/-! ### Codes -/

/-- A port A code is WRITE's, which alone has more to be checked, or reserved, or another command's (R91). -/
theorem appCode_cases (op : BitVec 4) : op = 0x6#4 ∨ reservedOp op = true ∨
    op ∈ [0x0#4, 0x1#4, 0x2#4, 0x3#4, 0x4#4, 0x5#4, 0x7#4, 0x8#4, 0x9#4, 0xA#4] := by
  revert op
  decide

theorem reservedOp_cases {op : BitVec 4} (h : reservedOp op = true) :
    op = 0xB#4 ∨ op = 0xC#4 ∨ op = 0xD#4 ∨ op = 0xE#4 ∨ op = 0xF#4 := by
  revert op
  decide

theorem twoBit_cases (op : BitVec 2) : op = 0b00#2 ∨ op = 0b01#2 ∨ op = 0b10#2 ∨ op = 0b11#2 := by
  revert op
  decide

/-! ### From an operation to its word and back -/

theorem decodeApp_of_reserved {r : AppRequest} (h : reservedOp r.aOp = true) : decodeApp p r = .ok (.appReserved r.aOp) := by
  obtain ⟨op, baud, cfg, len, payload⟩ := r
  obtain rfl | rfl | rfl | rfl | rfl := reservedOp_cases h <;> rfl

/-- A WRITE decodes exactly when it carries as many bytes as it says, and the length fits (R90, R212). -/
theorem decodeApp_write (p : Params) (baud : BitVec 32) (cfg : BitVec 16) (len : Nat) (payload : Bytes) :
    decodeApp p ⟨0x6#4, baud, cfg, len, payload⟩ =
      if payload.length = len ∧ p.lengthFits len = true then .ok (.write payload) else .error .malformedWrite := rfl

theorem decodeApp_encodeApp (hf : i.format = .app) (hwf : i.wf p = true) : decodeApp p (encodeApp i) = .ok i := by
  cases i with
  | write payload => exact if_pos ⟨rfl, hwf⟩
  | appReserved op => exact decodeApp_of_reserved hwf
  | openPort | openCfg | closePort | avail | peek | read | flush | isOpen | getWerr | clrWerr => rfl
  | rbAvail | rbWrite | rbRead | rbPeek | rxReady | pump | setup | getLineCoding | setLineCoding | setControlLineState |
    ctrlUnhandled => cases hf

/-- Settles O1, format by format: each short code decodes by its table, a request of endpoint 0 by the order of the rows of R84, which
`Instr.wf` says no earlier row breaks. -/
theorem decodeOfEncodeIsTheOperation : Obligations.DecodeOfEncodeIsTheOperation := by
  intro p i hwf
  cases i with
  | rbAvail | rbWrite | rbRead | rbPeek | rxReady | pump | setup => rfl
  | getLineCoding v x n => exact congrArg _ ((decodeSetup_packFields ..).trans (if_pos ⟨rfl, rfl⟩))
  | setLineCoding v x n =>
    have hget := wf_setLineCoding_iff.mp hwf
    exact congrArg _ ((decodeSetup_packFields ..).trans ((if_neg hget).trans (if_pos ⟨rfl, rfl⟩)))
  | setControlLineState v x n =>
    obtain ⟨hget, hset⟩ := wf_setControlLineState_iff.mp hwf
    exact congrArg _ ((decodeSetup_packFields ..).trans
      ((if_neg hget).trans ((if_neg hset).trans (if_pos ⟨rfl, rfl⟩))))
  | ctrlUnhandled packet => exact congrArg _ (decodeSetup_of_unrecognised hwf)
  | openPort | openCfg | closePort | avail | peek | read | write | flush | isOpen | getWerr | clrWerr | appReserved =>
    exact decodeApp_encodeApp rfl hwf

/-! ### From a word to its operation and back -/

theorem canonical_of_reserved {r : AppRequest} (h : reservedOp r.aOp = true) :
    (PortWord.app r).canonical = .app (appWord r.aOp) := by
  obtain ⟨op, baud, cfg, len, payload⟩ := r
  obtain rfl | rfl | rfl | rfl | rfl := reservedOp_cases h <;> rfl

/-- A command that decodes: of the operands its word keeps the two of OPEN_CFG, or the payload and length of WRITE (R91). -/
theorem decodeApp_wf_encode {r : AppRequest} (h : decodeApp p r = .ok i) :
    i.wf p = true ∧ encode p i = (PortWord.app r).canonical := by
  obtain hwrite | hres | hcode := appCode_cases r.aOp
  · obtain ⟨op, baud, cfg, len, payload⟩ := r
    obtain rfl : op = 0x6#4 := hwrite
    rw [decodeApp_write] at h
    split_ifs at h with hlen
    obtain ⟨rfl, hfits⟩ := hlen
    cases h
    exact ⟨hfits, rfl⟩
  · rw [decodeApp_of_reserved hres] at h
    cases h
    exact ⟨hres, (canonical_of_reserved hres).symm⟩
  · obtain ⟨op, baud, cfg, len, payload⟩ := r
    simp only [List.mem_cons, List.not_mem_nil, or_false] at hcode
    obtain rfl | rfl | rfl | rfl | rfl | rfl | rfl | rfl | rfl | rfl := hcode
    all_goals
      cases h
      exact ⟨rfl, rfl⟩

/-- An event that decodes: its word keeps the packet of a SETUP alone (R92). -/
theorem decodeUsb_wf_encode {e : UsbEvent} (h : decodeUsb e = .ok i) :
    i.wf p = true ∧ encode p i = (PortWord.usb e).canonical := by
  obtain ⟨ev, packet⟩ := e
  obtain rfl | rfl | rfl | rfl := twoBit_cases ev <;> cases h <;> exact ⟨rfl, rfl⟩

/-- Every word of port R decodes: it keeps the byte of RB_WRITE alone (R94). -/
theorem decodeRb_wf_encode (r : RbRequest) :
    (decodeRb r).wf p = true ∧ encode p (decodeRb r) = (PortWord.rb r).canonical := by
  obtain ⟨op, data⟩ := r
  obtain rfl | rfl | rfl | rfl := twoBit_cases op <;> exact ⟨rfl, rfl⟩

/-- Settles O2, format by format: the word's code decides the operation, and with it the fields that its encoding keeps. -/
theorem encodeOfDecodeIsTheCanonicalWord : Obligations.EncodeOfDecodeIsTheCanonicalWord := by
  intro p w i h
  cases w with
  | app r => exact decodeApp_wf_encode h
  | usb e => exact decodeUsb_wf_encode h
  | rb r =>
    cases h
    exact decodeRb_wf_encode r
  | setup packet =>
    cases h
    exact decodeSetup_wf_encode p packet
  | trig req =>
    cases req with
    | true => cases h; exact ⟨rfl, rfl⟩
    | false => cases h

/-- Settles O3: the packets by the order of the rows of R84 on the default codes, the others by the table of their port. -/
theorem specWordsDecode : Obligations.SpecWordsDecode := fun _ _ =>
  ⟨rfl, rfl, rfl, rfl, rfl, rfl, rfl, rfl, rfl, rfl, rfl, rfl, rfl, rfl⟩

end Sys2Proof
end

section
/-!
Proofs of the statements of 30_encoding.md, third part: the line-coding block (R86, R87) and the optional byte (R93).
-/

namespace Sys2Proof.Machine

/-! ### The line-coding block -/

/-- A byte laid below a word counts in units, the word in multiples of 256. -/
theorem toNat_append_byte {m : Nat} (x : BitVec m) (b : Byte) : (x ++ b).toNat = 2 ^ 8 * x.toNat + b.toNat := by
  rw [BitVec.toNat_append, ← Nat.shiftLeft_add_eq_or_of_lt b.isLt, Nat.shiftLeft_eq, Nat.mul_comm]

theorem toNat_le32 (b0 b1 b2 b3 : Byte) :
    (le32 b0 b1 b2 b3).toNat = b0.toNat + 2 ^ 8 * b1.toNat + 2 ^ 16 * b2.toNat + 2 ^ 24 * b3.toNat := by
  simp only [le32, toNat_append_byte]
  omega

/-- The four bytes of a 32-bit value are the whole value. -/
theorem le32_byteOf32 (v : BitVec 32) : le32 (byteOf32 v 0) (byteOf32 v 1) (byteOf32 v 2) (byteOf32 v 3) = v := by
  unfold le32 byteOf32
  rw [BitVec.extractLsb'_append_extractLsb'_eq_extractLsb' (by decide),
    BitVec.extractLsb'_append_extractLsb'_eq_extractLsb' (by decide),
    BitVec.extractLsb'_append_extractLsb'_eq_extractLsb' (by decide)]
  exact BitVec.extractLsb'_eq_self

section
variable (b0 b1 b2 b3 : Byte)

theorem byteOf32_le32_zero : byteOf32 (le32 b0 b1 b2 b3) 0 = b0 := BitVec.extractLsb'_append_eq_right

theorem byteOf32_le32_one : byteOf32 (le32 b0 b1 b2 b3) 1 = b1 :=
  (BitVec.extractLsb'_append_eq_of_le (by decide)).trans BitVec.extractLsb'_append_eq_right

theorem byteOf32_le32_two : byteOf32 (le32 b0 b1 b2 b3) 2 = b2 :=
  (BitVec.extractLsb'_append_eq_of_le (by decide)).trans <|
    (BitVec.extractLsb'_append_eq_of_le (by decide)).trans BitVec.extractLsb'_append_eq_right

theorem byteOf32_le32_three : byteOf32 (le32 b0 b1 b2 b3) 3 = b3 :=
  (BitVec.extractLsb'_append_eq_of_le (by decide)).trans <|
    (BitVec.extractLsb'_append_eq_of_le (by decide)).trans BitVec.extractLsb'_append_eq_left

end

theorem encodeLC_decodeLC (l : LineInfo) (b : LcBlock) : (l.decodeLC b).encodeLC = b := by
  simp only [LineInfo.encodeLC, LineInfo.decodeLC, byteOf32_le32_zero, byteOf32_le32_one, byteOf32_le32_two, byteOf32_le32_three]

theorem decodeLC_encodeLC (l : LineInfo) : l.decodeLC l.encodeLC = l := by
  simp only [LineInfo.encodeLC, LineInfo.decodeLC, le32_byteOf32]

/-- Settles O5: the four bytes of the baud rate are `le32` and its inverse, the other three are carried as they are. -/
theorem lineCodingBlockRoundTrips : Obligations.LineCodingBlockRoundTrips :=
  ⟨fun _ => rfl, fun _ _ => ⟨toNat_le32 .., rfl, rfl, rfl⟩, encodeLC_decodeLC, decodeLC_encodeLC,
    by decide, by decide, by decide⟩

/-! ### The optional byte -/

/-- The validity bit stands above the data (R93). -/
theorem getLsbD_eight_append (valid : BitVec 1) (data : Byte) : (valid ++ data).getLsbD 8 = valid.getLsbD 0 := by
  rw [BitVec.getLsbD_append, if_neg (by decide)]

/-- Settles O6: the data of a valid word are its low byte; without a byte the validity bit keeps the reader from the data. -/
theorem optionalByteWordRoundTrips : Obligations.OptionalByteWordRoundTrips := by
  intro pad r
  cases r with
  | none =>
    have hvalid : (optByteWord pad none).getLsbD 8 = false := getLsbD_eight_append 0#1 pad
    exact ⟨if_neg (Bool.eq_false_iff.mp hvalid), hvalid, nofun⟩
  | some b =>
    have hvalid : (optByteWord pad (some b)).getLsbD 8 = true := getLsbD_eight_append 1#1 b
    have hdata : (optByteWord pad (some b)).extractLsb' 0 8 = b := BitVec.extractLsb'_append_eq_right
    refine ⟨(if_pos hvalid).trans (congrArg some hdata), hvalid, ?_⟩
    rintro _ ⟨⟩
    exact hdata

end Sys2Proof.Machine
end

section
/-!
Proofs of the statements of 30_encoding.md, last part: an operation whose agent cannot take it waits on its port (R90, R150, R183, U18).
-/

namespace Sys2Proof.Machine

variable {s : State} {i : Instr} {k : State → Outcome}

theorem takeCtl_waits {w : SetupPacket} (h : s.ctl.phase ≠ .dispatch .t2) :
    takeCtl w s k = .next (s.setPortU (⟨0b10#2, w⟩ :: s.ports.portU)) := if_neg (mt ctlReady_iff.mp h)

theorem takeRb_waits {ready : Bool} {r : RbRequest} (h : ready = false) :
    takeRb ready r s k = .next (s.setPortR (r :: s.ports.portR)) := by simp [takeRb, h]

theorem appReady_eq_false (h : s.app ≠ .idle ∨ s.ctl.phase = .waitFifo) : s.appReady = false :=
  Bool.eq_false_iff.mpr fun hready => h.elim (· (appReady_iff.mp hready).1) (appReady_iff.mp hready).2

theorem pumpReady_eq_false (h : s.pump.phase ≠ .idle ∨ s.ctl.phase = .waitFifo) : s.pumpReady = false :=
  Bool.eq_false_iff.mpr fun hready => h.elim (· (pumpReady_iff.mp hready).1) (pumpReady_iff.mp hready).2

/-- Every command of port A begins with its taking (R90). -/
theorem exec_command_waits (hf : i.format = .app) (h : s.appReady = false) :
    exec i s = .next (s.setPortA (encodeApp i :: s.ports.portA)) := by
  unfold exec
  cases i with
  | openPort | openCfg | closePort | avail | peek | read | write | flush | isOpen | getWerr | clrWerr | appReserved =>
    exact takeApp_waits h
  | rbAvail | rbWrite | rbRead | rbPeek | rxReady | pump | setup | getLineCoding | setLineCoding | setControlLineState |
    ctrlUnhandled => cases hf

/-- Every request of endpoint 0 begins with the taking of the packet that is its encoding (R150). -/
theorem exec_request_waits {q : SetupPacket} (hq : encode s.params i = .setup q) (h : s.ctl.phase ≠ .dispatch .t2) :
    exec i s = .next (s.setPortU (⟨0b10#2, q⟩ :: s.ports.portU)) := by
  unfold exec
  cases i with
  | getLineCoding | setLineCoding | setControlLineState | ctrlUnhandled =>
    cases hq
    exact takeCtl_waits h
  | openPort | openCfg | closePort | avail | peek | read | write | flush | isOpen | getWerr | clrWerr | appReserved |
    rbAvail | rbWrite | rbRead | rbPeek | rxReady | pump | setup => cases hq

/-- Settles O16: each operation begins with its taking, and the taking leaves the word of an agent that is not ready on its port. -/
theorem operationWaitsForItsAgent : Obligations.OperationWaitsForItsAgent := by
  refine fun s => ⟨fun i hf hbusy => exec_command_waits hf (appReady_eq_false hbusy), fun i w hw hbusy => ?_, fun b hbusy => ?_,
    fun q hbusy => if_neg hbusy, fun i q hq hbusy => exec_request_waits hq hbusy⟩
  · obtain ⟨rfl, rfl⟩ | ⟨rfl, rfl⟩ | ⟨rfl, rfl⟩ := hw
    all_goals
      unfold exec
      exact takeRb_waits (appReady_eq_false hbusy)
  · unfold exec
    exact takeRb_waits (pumpReady_eq_false hbusy)

end Sys2Proof.Machine
end

section
/-!
Proofs of the statements of 40_ring_buffer.md, first part: the occupancy (R111), and what each primitive, whole, makes of a state in
which its agent is ready (R113 to R120).
-/

namespace Sys2Proof.Machine

variable {s : State} {b : Byte} {k : State → Outcome}

/-! ### Occupancy (R111) -/

theorem empty_iff : s.empty = true ↔ s.ring.head = s.ring.tail := beq_iff_eq

theorem full_iff : s.full = true ↔ inc s.params.C s.ring.head = s.ring.tail := beq_iff_eq

theorem avail_lt (hC : 0 < s.params.C) : s.avail < s.params.C := Nat.mod_lt _ hC

section
variable (hh : s.ring.head < s.params.C) (ht : s.ring.tail < s.params.C)
include hh ht

theorem empty_iff_avail_eq_zero : s.empty = true ↔ s.avail = 0 := by
  rw [empty_iff, avail_eq_ite hh ht]
  split_ifs <;> omega

/-- `head` is at most one lap ahead of `tail`, less the one cell that is never filled. -/
theorem full_iff_avail_eq : s.full = true ↔ s.avail = s.params.C - 1 := by
  rw [full_iff, avail_eq_ite hh ht, inc_eq_ite hh]
  split_ifs <;> omega

theorem full_eq_false_iff_avail_lt : s.full = false ↔ s.avail < s.params.C - 1 := by
  have hlt : s.avail < s.params.C := avail_lt (by omega)
  rw [← Bool.not_eq_true, full_iff_avail_eq hh ht]
  omega

end

/-- Settles O8: the definitions unfold, and both predicates are values of the occupancy, which `C ≥ 2` keeps apart. -/
theorem occupancyLaws : Obligations.OccupancyLaws := by
  intro s hC hh ht
  have hlt : s.avail < s.params.C := avail_lt (by omega)
  have hempty := empty_iff_avail_eq_zero hh ht
  have hfull := full_iff_avail_eq hh ht
  refine ⟨empty_iff, full_iff, rfl, rfl, Nat.le_sub_one_of_lt hlt, hempty, hfull, fun ⟨he, hf⟩ => ?_⟩
  have hzero := hempty.mp he
  have hlast := hfull.mp hf
  omega

/-! ### Cells and indices that the primitives leave behind -/

/-- The byte stored at `head`, and `head` advanced over it: W2 and W3 (R116). -/
def State.enqueue (s : State) (b : Byte) : State := (s.store s.ring.head b).setHead (inc s.params.C s.ring.head)

/-- `tail` advanced over the oldest unread byte: D3 (R118). -/
def State.dequeue (s : State) : State := s.setTail (inc s.params.C s.ring.tail)

/-- The byte at `tail`, if one is unread (R118, R120). -/
def State.oldest (s : State) : Option Byte := if s.ring.head = s.ring.tail then none else some (s.cell s.ring.tail)

theorem oldest_of_empty (he : s.empty = true) : s.oldest = none := if_pos (empty_iff.mp he)

theorem oldest_of_nonempty (hne : s.empty = false) : s.oldest = some (s.cell s.ring.tail) := if_neg (empty_eq_false_iff.mp hne)

theorem cell_store_same (s : State) (a : Nat) (b : Byte) : (s.store a b).cell a = b := cell_of_get? (Memory.get?_put_same ..)

theorem rbWriteByte_of_room (hroom : s.full = false) (hh : s.ring.head < s.params.C) :
    rbWriteByte b s = .ok (true, s.enqueue b) := by
  simp only [rbWriteByte, hroom, Bool.false_eq_true, if_false, memWrite_of_lt hh]
  rfl

theorem rbReadByte_of_empty (he : s.empty = true) : rbReadByte s = .ok (none, s) := by simp [rbReadByte, he]

theorem rbReadByte_of_nonempty (hne : s.empty = false) (ht : s.ring.tail < s.params.C) :
    rbReadByte s = .ok (some (s.cell s.ring.tail), s.dequeue) := by
  simp only [rbReadByte, hne, Bool.false_eq_true, if_false, memRead_of_lt ht]
  rfl

theorem rbPeekByte_eq_oldest (h : s.empty = true ∨ s.ring.tail < s.params.C) : rbPeekByte s = .ok (s.oldest, s) := by
  cases he : s.empty with
  | true => simp [rbPeekByte, he, oldest_of_empty he]
  | false =>
    have ht : s.ring.tail < s.params.C := h.resolve_left (Bool.eq_false_iff.mp he)
    simp [rbPeekByte, he, oldest_of_nonempty he, memRead_of_lt ht]

/-! ### The primitives as operations -/

theorem takeRb_ready {ready : Bool} {r : RbRequest} (h : ready = true) : takeRb ready r s k = k s := if_pos h

/-- The end of a command run whole: APP was idle and stays so. -/
theorem appReturn_of_idle (ha : s.app = .idle) (r : AppResponse) : s.appReturn r = s.respondA r := by
  unfold State.appReturn State.setApp
  rw [← ha]

section
variable (ha : s.app = .idle) (hc : s.ctl.phase ≠ .waitFifo)
include ha hc

theorem exec_rbAvail_of_idle : exec .rbAvail s = .next (s.respondR (.count s.avail)) := by
  simp only [exec, execRbAvail, takeRb_ready (appReady_iff.mpr ⟨ha, hc⟩)]

theorem exec_avail_of_idle : exec .avail s = .next (s.respondA (.count s.avail)) := by
  simp only [exec, execAvail, takeApp_ready (appReady_iff.mpr ⟨ha, hc⟩), appReturn_of_idle ha]

theorem exec_rbRead_of_empty (he : s.empty = true) : exec .rbRead s = .next (s.respondR (.opt none)) := by
  simp only [exec, execRbRead, takeRb_ready (appReady_iff.mpr ⟨ha, hc⟩), rbReadByte_of_empty he, withResult_ok]

theorem exec_rbRead_of_nonempty (hne : s.empty = false) (ht : s.ring.tail < s.params.C) :
    exec .rbRead s = .next (s.dequeue.respondR (.opt (some (s.cell s.ring.tail)))) := by
  simp only [exec, execRbRead, takeRb_ready (appReady_iff.mpr ⟨ha, hc⟩), rbReadByte_of_nonempty hne ht, withResult_ok]

theorem exec_rbPeek_of_idle (h : s.empty = true ∨ s.ring.tail < s.params.C) :
    exec .rbPeek s = .next (s.respondR (.opt s.oldest)) := by
  simp only [exec, execRbPeek, takeRb_ready (appReady_iff.mpr ⟨ha, hc⟩), rbPeekByte_eq_oldest h, withResult_ok]

theorem exec_peek_of_idle (h : s.empty = true ∨ s.ring.tail < s.params.C) :
    exec .peek s = .next (s.respondA (.optByte s.oldest)) := by
  simp only [exec, execPeek, takeApp_ready (appReady_iff.mpr ⟨ha, hc⟩), rbPeekByte_eq_oldest h, withResult_ok, appReturn_of_idle ha]

end

section
variable (hp : s.pump.phase = .idle) (hc : s.ctl.phase ≠ .waitFifo)
include hp hc

theorem exec_rbWrite_of_full (b : Byte) (hfull : s.full = true) : exec (.rbWrite b) s = .next (s.respondR (.ok false)) := by
  simp only [exec, execRbWrite, takeRb_ready (pumpReady_iff.mpr ⟨hp, hc⟩), rbWriteByte_full hfull, withResult_ok]

theorem exec_rbWrite_of_room (b : Byte) (hroom : s.full = false) (hh : s.ring.head < s.params.C) :
    exec (.rbWrite b) s = .next ((s.enqueue b).respondR (.ok true)) := by
  simp only [exec, execRbWrite, takeRb_ready (pumpReady_iff.mpr ⟨hp, hc⟩), rbWriteByte_of_room hroom hh, withResult_ok]

end

/-- Settles O20: both codes decode, and both operations answer the occupancy and are done. -/
theorem availCountsAndChangesNothing : Obligations.AvailCountsAndChangesNothing :=
  ⟨fun _ _ => rfl, fun _ _ _ _ _ => rfl, fun _ ha hc => ⟨exec_rbAvail_of_idle ha hc, exec_avail_of_idle ha hc, avail_lt⟩⟩

/-- Settles O21: the store replaces one cell and the rest of the new state is a record. -/
theorem rbWriteStoresOrRefuses : Obligations.RbWriteStoresOrRefuses := fun s b hp hc =>
  ⟨fun hfull => exec_rbWrite_of_full hp hc b (full_iff.mpr hfull), fun hroom hh =>
    ⟨_, exec_rbWrite_of_room hp hc b (full_eq_false_iff.mpr hroom) hh, cell_store_same s s.ring.head b,
      fun _ hother => cell_store_other b hother, rfl⟩⟩

/-- Settles O22: the emptiness of the buffer decides which of the two outcomes of RB_READ it is. -/
theorem rbReadDeliversTheOldest : Obligations.RbReadDeliversTheOldest := fun _ ha hc =>
  ⟨fun he => exec_rbRead_of_empty ha hc (empty_iff.mpr he),
    fun hne ht => exec_rbRead_of_nonempty ha hc (empty_eq_false_iff.mpr hne) ht⟩

/-- Settles O23: both answer the oldest unread byte, if there is one. -/
theorem peekChangesNothing : Obligations.PeekChangesNothing := by
  intro s ha hc r h
  have hcell : s.empty = true ∨ s.ring.tail < s.params.C := h.imp_left empty_iff.mpr
  exact ⟨exec_rbPeek_of_idle ha hc hcell, exec_peek_of_idle ha hc hcell⟩

end Sys2Proof.Machine
end

section
/-!
Proofs of the statements of 40_ring_buffer.md, last part: the primitives over the sequence of unread bytes (R121), one by one and in
runs of writes and of reads (R122).
-/

namespace Sys2Proof.Machine

variable {s : State}

/-! ### The unread sequence -/

theorem length_unread (s : State) : s.unread.length = s.avail := by simp [State.unread]

/-- The indices are in range and the agents of port R can take a primitive. -/
structure PrimitivesReady (s : State) : Prop where
  head_lt : s.ring.head < s.params.C
  tail_lt : s.ring.tail < s.params.C
  pump_idle : s.pump.phase = .idle
  app_idle : s.app = .idle
  no_stall : s.ctl.phase ≠ .waitFifo

namespace PrimitivesReady

theorem respondR (h : PrimitivesReady s) (r : RbResponse) : PrimitivesReady (s.respondR r) :=
  ⟨h.head_lt, h.tail_lt, h.pump_idle, h.app_idle, h.no_stall⟩

theorem enqueue (h : PrimitivesReady s) (b : Byte) : PrimitivesReady (s.enqueue b) :=
  ⟨inc_lt (Nat.zero_lt_of_lt h.head_lt), h.tail_lt, h.pump_idle, h.app_idle, h.no_stall⟩

theorem dequeue (h : PrimitivesReady s) : PrimitivesReady s.dequeue :=
  ⟨h.head_lt, inc_lt (Nat.zero_lt_of_lt h.tail_lt), h.pump_idle, h.app_idle, h.no_stall⟩

theorem empty_iff_unread_eq_nil (h : PrimitivesReady s) : s.empty = true ↔ s.unread = [] := by
  rw [empty_iff_avail_eq_zero h.head_lt h.tail_lt, ← length_unread, List.length_eq_zero_iff]

theorem empty_eq_false_of_unread_cons (h : PrimitivesReady s) {v : Byte} {q : Bytes} (hq : s.unread = v :: q) : s.empty = false :=
  Bool.eq_false_iff.mpr fun he => List.cons_ne_nil v q (hq.symm.trans (h.empty_iff_unread_eq_nil.mp he))

theorem full_eq_false_iff_length_lt (h : PrimitivesReady s) : s.full = false ↔ s.unread.length < s.params.C - 1 := by
  rw [length_unread, full_eq_false_iff_avail_lt h.head_lt h.tail_lt]

theorem full_iff_length_eq (h : PrimitivesReady s) : s.full = true ↔ s.unread.length = s.params.C - 1 := by
  rw [length_unread, full_iff_avail_eq h.head_lt h.tail_lt]

theorem unread_enqueue (h : PrimitivesReady s) (hroom : s.full = false) (b : Byte) : (s.enqueue b).unread = s.unread ++ [b] := by
  have hadvance := unread_setHead_inc (s := s.store s.ring.head b) h.head_lt h.tail_lt hroom
  have hcell : (s.store s.ring.head b).cell (s.store s.ring.head b).ring.head = b := cell_store_same s s.ring.head b
  rwa [unread_store_head h.head_lt h.tail_lt, hcell] at hadvance

theorem unread_eq_cons_dequeue (h : PrimitivesReady s) (hne : s.empty = false) :
    s.unread = s.cell s.ring.tail :: s.dequeue.unread := unread_setTail_inc h.head_lt h.tail_lt hne

theorem head?_unread (h : PrimitivesReady s) : s.unread.head? = s.oldest := by
  cases he : s.empty with
  | true => rw [h.empty_iff_unread_eq_nil.mp he, oldest_of_empty he, List.head?_nil]
  | false => rw [h.unread_eq_cons_dequeue he, oldest_of_nonempty he, List.head?_cons]

/-! ### One primitive (R121) -/

/-- A write with room puts its byte behind the unread ones. -/
theorem exec_rbWrite (h : PrimitivesReady s) (b : Byte) (hroom : s.unread.length < s.params.C - 1) :
    ∃ t, exec (.rbWrite b) s = .next t ∧ PrimitivesReady t ∧ t.params = s.params ∧ t.unread = s.unread ++ [b] ∧
      t.ports.respR = s.ports.respR ++ [.ok true] := by
  have hroom := h.full_eq_false_iff_length_lt.mpr hroom
  exact ⟨_, exec_rbWrite_of_room h.pump_idle h.no_stall b hroom h.head_lt, (h.enqueue b).respondR _, rfl,
    h.unread_enqueue hroom b, rfl⟩

/-- A read of a non-empty buffer answers the first unread byte and leaves the others. -/
theorem exec_rbRead (h : PrimitivesReady s) {v : Byte} {q : Bytes} (hq : s.unread = v :: q) :
    ∃ t, exec .rbRead s = .next t ∧ PrimitivesReady t ∧ t.unread = q ∧ t.ports.respR = s.ports.respR ++ [.opt (some v)] := by
  have hne := h.empty_eq_false_of_unread_cons hq
  obtain ⟨rfl, rfl⟩ := List.cons.inj (hq.symm.trans (h.unread_eq_cons_dequeue hne))
  exact ⟨_, exec_rbRead_of_nonempty h.app_idle h.no_stall hne h.tail_lt, h.dequeue.respondR _, rfl, rfl⟩

end PrimitivesReady

/-- Settles O25: each clause is one primitive's rule, the occupancy being the length of the sequence. -/
theorem primitivesActOnTheUnreadSequence : Obligations.PrimitivesActOnTheUnreadSequence := by
  intro s _ hh ht hp ha hc
  have h : PrimitivesReady s := ⟨hh, ht, hp, ha, hc⟩
  refine ⟨length_unread s, ?room, ?full, ?nonempty, ?none, ?peek, ?avail⟩
  case room =>
    intro b hroom
    obtain ⟨t, hexec, -, -, hunread, hresp⟩ := h.exec_rbWrite b hroom
    exact ⟨t, hexec, hunread, by simp [← length_unread, hunread], hresp⟩
  case full => exact fun b hfull => ⟨_, exec_rbWrite_of_full hp hc b (h.full_iff_length_eq.mpr hfull), rfl, rfl⟩
  case nonempty =>
    intro v q hq
    obtain ⟨t, hexec, -, hunread, hresp⟩ := h.exec_rbRead hq
    exact ⟨t, hexec, hunread, by simp [← length_unread, hunread, hq], hresp⟩
  case none => exact fun hq => ⟨_, exec_rbRead_of_empty ha hc (h.empty_iff_unread_eq_nil.mpr hq), hq, rfl⟩
  case peek =>
    rw [h.head?_unread]
    exact ⟨_, exec_rbPeek_of_idle ha hc (.inr ht), rfl, rfl⟩
  case avail =>
    rw [length_unread]
    exact ⟨_, exec_rbAvail_of_idle ha hc, rfl, rfl⟩

/-! ### Runs of writes and of reads (R122) -/

namespace PrimitivesReady

/-- Writes that fit put their bytes behind the unread ones, in order. -/
theorem execAll_rbWrite (bs : Bytes) : ∀ {s : State}, PrimitivesReady s → s.unread.length + bs.length ≤ s.params.C - 1 →
    ∃ t, execAll (bs.map Instr.rbWrite) s = .next t ∧ PrimitivesReady t ∧ t.unread = s.unread ++ bs ∧
      t.ports.respR = s.ports.respR ++ bs.map fun _ => .ok true := by
  induction bs with
  | nil => exact fun {s} h _ => ⟨s, rfl, h, by simp, by simp⟩
  | cons b bs ih =>
    intro s h hfits
    rw [List.length_cons] at hfits
    obtain ⟨u, hexec, hu, hparams, hunread, hresp⟩ := h.exec_rbWrite b (by omega)
    have hfits' : u.unread.length + bs.length ≤ u.params.C - 1 := by
      rw [hunread, hparams, List.length_append, List.length_singleton]
      omega
    obtain ⟨t, hrest, ht, hunread', hresp'⟩ := ih hu hfits'
    refine ⟨t, ?_, ht, by simp [hunread', hunread], by simp [hresp', hresp]⟩
    rw [List.map_cons, execAll, hexec, andThen_next, hrest]

/-- As many reads as bytes are unread answer them, in order, and leave none. -/
theorem execAll_rbRead (q : Bytes) : ∀ {s : State}, PrimitivesReady s → s.unread = q →
    ∃ u, execAll (List.replicate q.length .rbRead) s = .next u ∧ PrimitivesReady u ∧ u.unread = [] ∧
      u.ports.respR = s.ports.respR ++ q.map fun v => .opt (some v) := by
  induction q with
  | nil => exact fun {s} h hq => ⟨s, rfl, h, hq, by simp⟩
  | cons v q ih =>
    intro s h hq
    obtain ⟨t, hexec, ht, hunread, hresp⟩ := h.exec_rbRead hq
    obtain ⟨u, hrest, hu, hnone, hresp'⟩ := ih ht hunread
    refine ⟨u, ?_, hu, hnone, by simp [hresp', hresp]⟩
    rw [List.length_cons, List.replicate_succ, execAll, hexec, andThen_next, hrest]

end PrimitivesReady

/-- Settles O26: the writes make the sequence the unread one, and the reads take it from there. -/
theorem writesThenReadsGiveTheSequence : Obligations.WritesThenReadsGiveTheSequence := by
  intro s bs _ hh htail hp ha hc hfits
  have h : PrimitivesReady s := ⟨hh, htail ▸ hh, hp, ha, hc⟩
  have hnone : s.unread = [] := h.empty_iff_unread_eq_nil.mp (empty_iff.mpr htail.symm)
  obtain ⟨t, hwrites, ht, hunread, hrespW⟩ := h.execAll_rbWrite bs (by simpa [hnone] using hfits)
  rw [hnone, List.nil_append] at hunread
  obtain ⟨u, hreads, hu, hempty, hrespR⟩ := PrimitivesReady.execAll_rbRead bs ht hunread
  exact ⟨t, u, hwrites, by rw [← length_unread, hunread], hreads, hu.empty_iff_unread_eq_nil.mpr hempty, by rw [hrespR, hrespW]⟩

end Sys2Proof.Machine
end

section
/-!
Proofs of the statements of 41_receive_pump.md, first part: the micro-steps of a pass (R133), and that a pass run whole is its micro-steps
one after another (R56).
-/

namespace Sys2Proof.Machine

variable {s t : State}

/-! ### PUMP's next micro-step -/

/-- The micro-step that a label of a running pass stands for (R133). -/
def pumpLabelStep : PumpLabel → State → Outcome
  | .u1, s => .next (pumpU1 s)
  | .u2, s => .next (pumpU2 s)
  | .u3, s => pumpU3 s
  | .u4, s => pumpU4 s
  | .u5, s => .next (pumpU5 s)
  | .u6, s => .next (pumpU6 s)

theorem stall_eq_false (hc : s.ctl.phase ≠ .waitFifo) : s.stall = false := Bool.eq_false_iff.mpr (mt stall_iff.mp hc)

theorem pumpMicro_of_stall (hc : s.ctl.phase = .waitFifo) : pumpMicro s = .next s := if_pos (stall_iff.mpr hc)

section
variable (hc : s.ctl.phase ≠ .waitFifo)
include hc

theorem pumpMicro_of_idle (hp : s.pump.phase = .idle) : pumpMicro s = .next (if s.pump.req then pumpU0 s else s) := by
  simp only [pumpMicro, stall_eq_false hc, Bool.false_eq_true, if_false, hp]

theorem pumpMicro_of_asked (hp : s.pump.phase = .idle) (hreq : s.pump.req = true) : pumpMicro s = .next (pumpU0 s) := by
  rw [pumpMicro_of_idle hc hp, if_pos hreq]

theorem pumpMicro_of_run {l : PumpLabel} (hp : s.pump.phase = .run l) : pumpMicro s = pumpLabelStep l s := by
  simp only [pumpMicro, stall_eq_false hc, Bool.false_eq_true, if_false, hp]
  cases l <;> rfl

end

/-! ### The micro-steps (R133) -/

theorem pumpU1_eq (s : State) : pumpU1 s = { s with
    pump := { s.pump with
      nextIndex := inc s.params.C s.ring.head
      phase := .run (if inc s.params.C s.ring.head = s.ring.tail then .u6 else .u2) } } := by
  simp only [pumpU1, full_iff]
  rfl

theorem pumpU1_phase_of_full (hfull : s.full = true) : (pumpU1 s).pump.phase = .run .u6 := by simp [pumpU1, hfull]

theorem pumpU2_of_drained (hq : s.env.rxq = []) : pumpU2 s = s.releaseReceiveBuffer.setPumpPhase (.run .u6) :=
  if_neg (mt isEndpointDataAvailable_rx_iff.mp (not_not.mpr hq))

theorem pumpU3_of_cons {b : Byte} {rest : Bytes} (hq : s.env.rxq = b :: rest) :
    pumpU3 s = .next (((s.setEnv { s.env with rxq := rest }).setPumpByte b).setPumpPhase (.run .u4)) := by
  rw [pumpU3, receiveByte_rx_cons hq, withResult_ok]

theorem pumpU4_of_lt (hh : s.ring.head < s.params.C) :
    pumpU4 s = .next ((s.store s.ring.head s.pump.byte).setPumpPhase (.run .u5)) := by
  simp only [pumpU4, memWrite_of_lt hh]
  rfl

/-- Settles O30: the label decides the micro-step, and U1, U2 and U4 what they find. -/
theorem pumpMicroSteps : Obligations.PumpMicroSteps := by
  refine ⟨fun _ => rfl, fun s hc => pumpMicro_of_stall hc, fun s hc => ⟨?unasked, ?u0, ?u1, ?u2, ?release, ?u3, ?u4, ?u5, ?u6⟩⟩
  case unasked => exact fun hp hreq => (pumpMicro_of_idle hc hp).trans (congrArg _ (if_neg (Bool.eq_false_iff.mp hreq)))
  case u0 => exact fun hp hreq => pumpMicro_of_asked hc hp hreq
  case u1 => exact fun hp => (pumpMicro_of_run hc hp).trans (congrArg _ (pumpU1_eq s))
  case u2 =>
    intro hp hq
    exact (pumpMicro_of_run hc hp).trans (congrArg _ (pumpU2_of_available (isEndpointDataAvailable_rx_iff.mpr hq)))
  case release => exact fun hp hq => (pumpMicro_of_run hc hp).trans (congrArg _ (pumpU2_of_drained hq))
  case u3 => exact fun b q hp hq => (pumpMicro_of_run hc hp).trans (pumpU3_of_cons hq)
  case u4 =>
    exact fun hp hh => ⟨_, (pumpMicro_of_run hc hp).trans (pumpU4_of_lt hh), cell_store_same s s.ring.head s.pump.byte,
      fun _ hother => cell_store_other s.pump.byte hother, rfl⟩
  case u5 => exact fun hp => pumpMicro_of_run hc hp
  case u6 => exact fun hp => pumpMicro_of_run hc hp

/-! ### The pass, whole -/

theorem exec_pump_of_asked (hp : s.pump.phase = .idle) (hreq : s.pump.req = true) (hc : s.ctl.phase ≠ .waitFifo) :
    exec .pump s = pumpLoop (s.env.rxq.length + 1) (pumpU0 s) :=
  if_pos (Bool.and_eq_true_iff.mpr ⟨pumpReady_iff.mpr ⟨hp, hc⟩, hreq⟩)

/-- Settles O29: each of the three conditions fails the test that a pass begins with. -/
theorem noPassUnlessAsked : Obligations.NoPassUnlessAsked := by
  intro s h
  have hnone : (s.pumpReady && s.pump.req) = false := by
    obtain hreq | hbusy := h
    · rw [hreq, Bool.and_false]
    · rw [pumpReady_eq_false hbusy, Bool.false_and]
  exact if_neg (Bool.eq_false_iff.mp hnone)

/-- U3 leads to U4 and leaves one byte less in the endpoint. -/
theorem pumpU3_leads_to_u4 (s : State) : Ensures (pumpU3 s) fun t =>
    t.pump.phase = .run .u4 ∧ t.ctl = s.ctl ∧ t.env.rxq.length + 1 = s.env.rxq.length := fun t ht => by
  obtain ⟨b, rest, hq, rfl⟩ := pumpU3_eq_next ht
  exact ⟨rfl, rfl, by rw [hq]; rfl⟩

theorem pumpU4_leads_to_u5 (s : State) : Ensures (pumpU4 s) fun t =>
    t.pump.phase = .run .u5 ∧ t.ctl = s.ctl ∧ t.env.rxq = s.env.rxq := fun t ht => by
  obtain ⟨-, rfl⟩ := pumpU4_eq_next ht
  exact ⟨rfl, rfl, rfl⟩

/-- U3, U4 and U5, each of which may be the one that stops, and what follows them. -/
theorem reaches_of_turn {g : State → Outcome} (hp : s.pump.phase = .run .u3) (hc : s.ctl.phase ≠ .waitFifo)
    (hg : ∀ u : State, u.pump.phase = .run .u1 → u.ctl.phase ≠ .waitFifo → u.env.rxq.length < s.env.rxq.length →
      Reaches pumpMicro u (g u)) :
    Reaches pumpMicro s (andThen (pumpU3 s) fun t => andThen (pumpU4 t) fun u => g (pumpU5 u)) := by
  refine .andThen (pumpMicro_of_run hc hp) fun u3 hU3 => ?_
  obtain ⟨hp3, hctl3, hlen3⟩ := pumpU3_leads_to_u4 s u3 hU3
  have hc3 : u3.ctl.phase ≠ .waitFifo := hctl3 ▸ hc
  refine .andThen (pumpMicro_of_run hc3 hp3) fun u4 hU4 => ?_
  obtain ⟨hp4, hctl4, hrxq4⟩ := pumpU4_leads_to_u5 u3 u4 hU4
  have hc4 : u4.ctl.phase ≠ .waitFifo := hctl4 ▸ hc3
  have hlen : (pumpU5 u4).env.rxq.length < s.env.rxq.length := by
    rw [show (pumpU5 u4).env = u4.env from rfl, hrxq4]
    omega
  exact .step (pumpMicro_of_run hc4 hp4) (hg (pumpU5 u4) rfl hc4 hlen)

/-- From U1 on, the loop is its micro-steps: a turn is U1 to U5, the last one ends in U6. The turns suffice, for each takes a byte. -/
theorem pumpLoop_reaches (turns : Nat) : ∀ {s : State}, s.pump.phase = .run .u1 → s.ctl.phase ≠ .waitFifo →
    s.env.rxq.length < turns → Reaches pumpMicro s (pumpLoop turns s) := by
  induction turns with
  | zero => exact fun _ _ hlen => absurd hlen (Nat.not_lt_zero _)
  | succ turns ih =>
    intro s hp hc hlen
    have hU1 : pumpMicro s = .next (pumpU1 s) := pumpMicro_of_run hc hp
    have hc1 : (pumpU1 s).ctl.phase ≠ .waitFifo := hc
    refine .step hU1 ?_
    unfold pumpLoop
    cases hfull : s.full with
    | true => exact .last (pumpMicro_of_run hc1 (pumpU1_phase_of_full hfull))
    | false =>
      have hU2 : pumpMicro (pumpU1 s) = .next (pumpU2 (pumpU1 s)) := pumpMicro_of_run hc1 (pumpU1_phase_of_room hfull)
      refine .step hU2 ?_
      rw [if_neg Bool.false_ne_true]
      split
      case isTrue hq =>
        rw [pumpU2_of_available (s := pumpU1 s) hq]
        exact reaches_of_turn rfl hc fun u hpu hcu hlenu => ih hpu hcu (Nat.lt_of_lt_of_le hlenu (Nat.le_of_lt_succ hlen))
      case isFalse hq =>
        rw [pumpU2_of_drained (s := pumpU1 s) (not_not.mp (mt isEndpointDataAvailable_rx_iff.mpr hq))]
        exact .last (pumpMicro_of_run (s := (pumpU1 s).releaseReceiveBuffer.setPumpPhase (.run .u6)) hc rfl)

/-- Settles O31: U0, then the loop from U1 on. -/
theorem passIsItsMicroSteps : Obligations.PassIsItsMicroSteps := by
  intro s hp hreq hc
  rw [exec_pump_of_asked hp hreq hc]
  exact Reaches.step (pumpMicro_of_asked hc hp hreq) (pumpLoop_reaches _ rfl hc (Nat.lt_succ_self _))

end Sys2Proof.Machine
end

section
/-!
Proofs of the statements of 41_receive_pump.md, second part: what a pass stores and what it leaves (R133 to R137).
-/

namespace Sys2Proof.Machine

variable {s t u : State}

/-! ### Storing one byte where there is room (R111, R121) -/

section
variable (hh : s.ring.head < s.params.C) (ht : s.ring.tail < s.params.C) (hroom : s.full = false)
include hh ht hroom

theorem unread_enqueue (b : Byte) : (s.enqueue b).unread = s.unread ++ [b] := by
  have hadvance := unread_setHead_inc (s := s.store s.ring.head b) hh ht hroom
  have hcell : (s.store s.ring.head b).cell (s.store s.ring.head b).ring.head = b := cell_store_same s s.ring.head b
  rwa [unread_store_head hh ht, hcell] at hadvance

theorem avail_enqueue (b : Byte) : (s.enqueue b).avail = s.avail + 1 := avail_setHead_inc (s := s.store s.ring.head b) hh ht hroom

end

/-! ### What a pass writes -/

/-- `s` with the fields that a pass writes as `t` has them. -/
def State.passedTo (s t : State) : State := { s with
  ring := { s.ring with storage := t.ring.storage, head := t.ring.head }
  pump := t.pump
  env := { s.env with rxq := t.env.rxq, rxReleased := t.env.rxReleased } }

/-- Between `s` and `t` PUMP handed the first `k` bytes of the endpoint to the buffer, in order, and did nothing else but sequence itself
and perhaps release the endpoint. -/
structure Stores (k : Nat) (s t : State) : Prop where
  unread : t.unread = s.unread ++ s.env.rxq.take k
  rxq : t.env.rxq = s.env.rxq.drop k
  head : t.ring.head = (s.ring.head + k) % s.params.C
  req : t.pump.req = s.pump.req
  cells : ∀ a, (∀ j, j < k → a ≠ (s.ring.head + j) % s.params.C) → t.cell a = s.cell a
  frame : t = s.passedTo t

namespace Stores

/-- A step that leaves the buffer and the endpoint's bytes stores none. -/
theorem zero (hh : s.ring.head < s.params.C) (hframe : t = s.passedTo t) (hring : t.ring = s.ring) (hrxq : t.env.rxq = s.env.rxq)
    (hreq : t.pump.req = s.pump.req) : Stores 0 s t := by
  have hparams : t.params = s.params := by rw [hframe]; rfl
  have hepoch : t.drive = s.drive := by rw [hframe]; rfl
  have hcell a : t.cell a = s.cell a := by simp only [State.cell, hring, hepoch]
  refine ⟨?_, hrxq, by rw [hring, Nat.add_zero, Nat.mod_eq_of_lt hh], hreq, fun a _ => hcell a, hframe⟩
  simp only [State.unread, State.avail, State.unreadCell, State.cell, hring, hparams, hepoch, List.take_zero, List.append_nil]

theorem params {k : Nat} (h : Stores k s t) : t.params = s.params := by rw [h.frame]; rfl

theorem trans {j k : Nat} (h : Stores j s t) (h' : Stores k t u) : Stores (j + k) s u where
  unread := by rw [h'.unread, h.unread, h.rxq, List.take_add, List.append_assoc]
  rxq := by rw [h'.rxq, h.rxq, List.drop_drop]
  head := by rw [h'.head, h.head, h.params, Nat.mod_add_mod, Nat.add_assoc]
  req := h'.req.trans h.req
  cells a ha := by
    rw [h'.cells a fun i hi => ?_, h.cells a fun i hi => ha i (by omega)]
    rw [h.head, h.params, Nat.mod_add_mod, Nat.add_assoc]
    exact ha (j + i) (by omega)
  frame := calc
    u = t.passedTo u := h'.frame
    _ = (s.passedTo t).passedTo u := congrArg (·.passedTo u) h.frame
    _ = s.passedTo u := rfl

end Stores

/-! ### A turn of the loop (R133) -/

/-- U1 to U5 on an endpoint that holds `b` and behind it `rest`. -/
def State.afterTurn (s : State) (b : Byte) (rest : Bytes) : State := { s.enqueue b with
  pump := { s.pump with nextIndex := inc s.params.C s.ring.head, byte := b, phase := .run .u1 }
  env := { s.env with rxq := rest } }

theorem stores_afterTurn (hh : s.ring.head < s.params.C) (ht : s.ring.tail < s.params.C) (hroom : s.full = false) {b : Byte}
    {rest : Bytes} (hq : s.env.rxq = b :: rest) : Stores 1 s (s.afterTurn b rest) where
  unread := by rw [hq]; exact unread_enqueue hh ht hroom b
  rxq := by rw [hq]; rfl
  head := rfl
  req := rfl
  cells a ha := by
    have hother : a ≠ s.ring.head := by simpa [Nat.mod_eq_of_lt hh] using ha 0 Nat.one_pos
    exact cell_store_other b hother
  frame := rfl

theorem pumpLoop_of_full (turns : Nat) (hfull : s.full = true) : pumpLoop (turns + 1) s = .next (pumpU6 (pumpU1 s)) := if_pos hfull

theorem pumpLoop_of_drained (turns : Nat) (hroom : s.full = false) (hq : s.env.rxq = []) :
    pumpLoop (turns + 1) s = .next (pumpU6 (pumpU1 s).releaseReceiveBuffer) := by
  have hnone : ¬s.isEndpointDataAvailable .rx = true := mt isEndpointDataAvailable_rx_iff.mp (not_not.mpr hq)
  rw [pumpLoop, hroom, if_neg Bool.false_ne_true, if_neg hnone, pumpU2_of_drained (s := pumpU1 s) hq]
  rfl

theorem pumpLoop_of_turn (turns : Nat) (hh : s.ring.head < s.params.C) (hroom : s.full = false) {b : Byte} {rest : Bytes}
    (hq : s.env.rxq = b :: rest) : pumpLoop (turns + 1) s = pumpLoop turns (s.afterTurn b rest) := by
  have hdata : s.isEndpointDataAvailable .rx = true := isEndpointDataAvailable_rx_iff.mpr (by simp [hq])
  have hU3 := pumpU3_of_cons (s := (pumpU1 s).setPumpPhase (.run .u3)) hq
  rw [pumpLoop, hroom, if_neg Bool.false_ne_true, if_pos hdata, pumpU2_of_available (s := pumpU1 s) hdata, hU3, andThen_next,
    pumpU4_of_lt (by exact hh), andThen_next]
  simp only [pumpU5, pumpU1, State.store, State.setPumpPhase, State.setPumpNext, State.setPumpByte, State.setEnv, State.setHead,
    State.afterTurn, State.enqueue]

/-! ### The loop -/

/-- The number of bytes that the buffer has room for (R111). -/
def State.freeCells (s : State) : Nat := s.params.C - 1 - s.avail

section
variable (hh : s.ring.head < s.params.C) (ht : s.ring.tail < s.params.C)
include hh ht

theorem freeCells_of_full (hfull : s.full = true) : s.freeCells = 0 := by
  rw [State.freeCells, (full_iff_avail_eq hh ht).mp hfull, Nat.sub_self]

theorem freeCells_pos (hroom : s.full = false) : 0 < s.freeCells := Nat.sub_pos_of_lt ((full_eq_false_iff_avail_lt hh ht).mp hroom)

theorem freeCells_afterTurn (hroom : s.full = false) (b : Byte) (rest : Bytes) :
    s.freeCells = (s.afterTurn b rest).freeCells + 1 := by
  have hpos := freeCells_pos hh ht hroom
  have havail : (s.afterTurn b rest).avail = s.avail + 1 := avail_enqueue hh ht hroom b
  have hC : (s.afterTurn b rest).params.C = s.params.C := rfl
  unfold State.freeCells at hpos ⊢
  omega

end

/-- The pass whose loop stands at `s` ends in `t`: what fits is stored, and an endpoint emptied with room left is released. -/
structure PassEnds (s t : State) : Prop where
  stores : Stores (min s.freeCells s.env.rxq.length) s t
  idle : t.pump.phase = .idle
  released : t.env.rxReleased = (s.env.rxReleased || decide (s.env.rxq.length < s.freeCells))

theorem passEnds_of_full (hh : s.ring.head < s.params.C) (ht : s.ring.tail < s.params.C) (hfull : s.full = true) :
    PassEnds s (pumpU6 (pumpU1 s)) where
  stores := by
    rw [freeCells_of_full hh ht hfull, Nat.zero_min]
    exact .zero hh rfl rfl rfl rfl
  idle := rfl
  released := by
    rw [freeCells_of_full hh ht hfull, decide_eq_false (Nat.not_lt_zero _), Bool.or_false]
    rfl

theorem passEnds_of_drained (hh : s.ring.head < s.params.C) (ht : s.ring.tail < s.params.C) (hroom : s.full = false)
    (hq : s.env.rxq = []) : PassEnds s (pumpU6 (pumpU1 s).releaseReceiveBuffer) where
  stores := by
    rw [hq, List.length_nil, Nat.min_zero]
    exact .zero hh rfl rfl rfl rfl
  idle := rfl
  released := by
    rw [hq, List.length_nil, decide_eq_true (freeCells_pos hh ht hroom), Bool.or_true]
    rfl

theorem PassEnds.of_turn (hh : s.ring.head < s.params.C) (ht : s.ring.tail < s.params.C) (hroom : s.full = false) {b : Byte}
    {rest : Bytes} (hq : s.env.rxq = b :: rest) (h : PassEnds (s.afterTurn b rest) t) : PassEnds s t := by
  have hfree := freeCells_afterTurn hh ht hroom b rest
  have hlen : s.env.rxq.length = (s.afterTurn b rest).env.rxq.length + 1 := by rw [hq]; rfl
  refine ⟨?_, h.idle, ?_⟩
  · rw [hfree, hlen, Nat.add_min_add_right, Nat.add_comm]
    exact (stores_afterTurn hh ht hroom hq).trans h.stores
  · simp only [h.released, hfree, hlen, Nat.add_lt_add_iff_right]
    rfl

/-- Turn by turn, as the endpoint's bytes stand. -/
theorem pumpLoop_passEnds (q : Bytes) : ∀ {s : State}, s.env.rxq = q → s.ring.head < s.params.C → s.ring.tail < s.params.C →
    ∃ t, pumpLoop (q.length + 1) s = .next t ∧ PassEnds s t := by
  induction q with
  | nil =>
    intro s hq hh ht
    cases hfull : s.full with
    | true => exact ⟨_, pumpLoop_of_full _ hfull, passEnds_of_full hh ht hfull⟩
    | false => exact ⟨_, pumpLoop_of_drained _ hfull hq, passEnds_of_drained hh ht hfull hq⟩
  | cons b q ih =>
    intro s hq hh ht
    cases hfull : s.full with
    | true => exact ⟨_, pumpLoop_of_full _ hfull, passEnds_of_full hh ht hfull⟩
    | false =>
      obtain ⟨t, hloop, hends⟩ := ih (s := s.afterTurn b q) rfl (inc_lt (Nat.zero_lt_of_lt hh)) ht
      exact ⟨t, (pumpLoop_of_turn _ hh hfull hq).trans hloop, hends.of_turn hh ht hfull hq⟩

/-- Settles O28: U0 touches neither the buffer nor the endpoint, and the loop ends as `PassEnds` says. -/
theorem passStoresWhatFits : Obligations.PassStoresWhatFits := by
  intro s _ hh ht hp hreq hc
  obtain ⟨t, hloop, hends⟩ := pumpLoop_passEnds s.env.rxq (s := pumpU0 s) rfl hh ht
  obtain ⟨hstores, hidle, hreleased⟩ := hends
  obtain ⟨hunread, hrxq, hhead, hreq', hcells, hframe⟩ := hstores
  exact ⟨t, (exec_pump_of_asked hp hreq hc).trans hloop, hunread, hrxq, hhead, hreleased, hreq', hidle, hcells, hframe⟩

end Sys2Proof.Machine
end

section
/-!
Proofs of the statements of 41_receive_pump.md, last part: packet arrival (R67, R136), and the only steps that set and clear `pump_req`
(R131, R132).
-/

namespace Sys2Proof.Machine

variable {s t u : State} {p : Pick}

/-! ### Packet arrival (R67) -/

theorem arrive_of_released (h : s.env.rxReleased = true) (bs : Bytes) :
    arrive bs s = (s.setEnv { s.env with rxq := bs, rxReleased := false }).askPass := if_pos h

theorem arrive_of_held (h : s.env.rxReleased = false) (bs : Bytes) : arrive bs s = s := if_neg (Bool.eq_false_iff.mp h)

theorem arriveNext_of_held (h : s.env.rxReleased = false) : arriveNext s = s := if_neg (Bool.eq_false_iff.mp h)

theorem drawPacket_rxReleased (s : State) : (drawPacket s).2.env.rxReleased = s.env.rxReleased := by
  unfold drawPacket
  split <;> rfl

theorem arriveNext_of_released (h : s.env.rxReleased = true) : arriveNext s =
    ((drawPacket s).2.setEnv { (drawPacket s).2.env with rxq := (drawPacket s).1, rxReleased := false }).askPass :=
  (if_pos h).trans (arrive_of_released ((drawPacket_rxReleased s).trans h) _)

theorem drawPacket_of_cons {bs : Bytes} {future : List Bytes} (h : s.env.rxFuture = bs :: future) :
    drawPacket s = (bs, s.setEnv { s.env with rxFuture := future }) := by simp only [drawPacket, h]

theorem presentUsb_rxReady (q : SetupPacket) (s : State) : presentUsb ⟨0b01#2, q⟩ s = arriveNext s := if_pos rfl

/-- The arrival with the next packet, by either of its picks. -/
theorem step_arriveNext {q : SetupPacket} {rest : List Pick} (hok : s.params.ok = true)
    (hp : s.drive.schedule = .packet :: rest ∨ s.drive.schedule = .presentUsb ⟨0b01#2, q⟩ :: rest) :
    step s = .next (arriveNext { s with drive := { s.drive with schedule := rest } }) := by
  obtain hp | hp := hp
  · exact step_listed hok hp
  · exact (step_listed hok hp).trans (congrArg Host.Outcome.next (presentUsb_rxReady q _))

/-- Settles O27: both arrivals are enabled by the endpoint's release, and each of their picks runs them. -/
theorem rxReadyAndPacketArrival : Obligations.RxReadyAndPacketArrival := by
  refine ⟨fun _ _ => rfl, fun _ => rfl, ?_⟩
  intro s bs rest hok s' t
  refine ⟨?given, ?next, ?held⟩
  case given => exact fun hp hfree => (step_listed hok hp).trans (congrArg _ (arrive_of_released (s := s') hfree bs))
  case next =>
    intro q future hp hfree hfuture
    rw [step_arriveNext hok hp, arriveNext_of_released (s := s') hfree, drawPacket_of_cons (s := s') hfuture]
    rfl
  case held =>
    rintro q (hp | hp) hheld
    · exact (step_listed hok hp).trans (congrArg _ (arrive_of_held (s := s') hheld bs))
    · exact (step_arriveNext hok hp).trans (congrArg _ (arriveNext_of_held (s := s') hheld))

/-! ### PUMP's registers: shared operations that leave them -/

theorem applyHeuristic_pump (s : State) : (applyHeuristic s).pump = s.pump := by
  unfold applyHeuristic
  split_ifs <;> rfl

theorem sampleEarly_pump (s : State) : (sampleEarly s).2.pump = s.pump := by
  unfold sampleEarly drawEarly
  split <;> rfl

theorem writeResult_pump (r : SendAnswer) (s : State) : (writeResult r s).pump = s.pump := by
  unfold writeResult
  split <;> rfl

theorem isOpenA1_pump (s : State) : (isOpenA1 s).pump = s.pump := by
  unfold isOpenA1
  split <;> rfl

theorem isOpenA4_pump (t0 : Nat) (sample : Option Byte) (s : State) : (isOpenA4 t0 sample s).pump = s.pump := by
  unfold isOpenA4
  split <;> rfl

theorem ctlS2_pump (s : State) : (ctlS2 s).pump = s.pump := by
  unfold ctlS2
  split <;> rfl

theorem sendBytes_pump {payload : Bytes} {r : SendAnswer} (h : sendBytes payload s = .ok (r, t)) : t.pump = s.pump := by
  obtain ⟨u, hu, rfl⟩ := sendBytes_eq_ok h
  obtain ⟨-, ⟨-, -, rfl⟩ | ⟨rest, -, rfl⟩⟩ := drawSend_eq_ok hu <;> rfl

theorem rbReadByte_pump {r : Option Byte} (h : rbReadByte s = .ok (r, t)) : t.pump = s.pump := by
  obtain ⟨-, -, rfl⟩ | ⟨-, -, -, rfl⟩ := rbReadByte_eq_ok h <;> rfl

theorem rbPeekByte_pump {r : Option Byte} (h : rbPeekByte s = .ok (r, t)) : t.pump = s.pump := by
  obtain ⟨rfl, -⟩ := rbPeekByte_eq_ok h
  rfl

theorem rbWriteByte_pump {b : Byte} {ok : Bool} (h : rbWriteByte b s = .ok (ok, t)) : t.pump = s.pump := by
  obtain ⟨-, -, rfl⟩ | ⟨-, -, -, rfl⟩ := rbWriteByte_eq_ok h <;> rfl

/-! ### PUMP's registers: CTRL, and whole operations -/

theorem slcResume_pump (s : State) : Ensures (slcResume s) fun t => t.pump = s.pump := by
  unfold slcResume
  split
  · intro t ht
    obtain ⟨d, q, -, rfl⟩ := slcFinish_eq_next ht
    exact ctlS2_pump s
  · exact .next rfl

theorem ctlMicro_pump (s : State) : Ensures (ctlMicro s) fun t => t.pump = s.pump := by
  unfold ctlMicro
  cases s.ctl.phase with
  | idle => exact .next rfl
  | waitFifo => exact .next (ctlS2_pump s)
  | dispatch l =>
    cases l with
    | s3 =>
      intro t ht
      obtain ⟨d, q, -, rfl⟩ := ctlS3_eq_next ht
      rfl
    | l2 => exact .next (applyHeuristic_pump s)
    | t2 | g1 | g2 | s1 | s4 | s5 | l1 | l3 | n1 => exact .next rfl

theorem execSetup_pump (packet : SetupPacket) (s : State) : Ensures (execSetup packet s) fun t => t.pump = s.pump := by
  unfold execSetup
  split <;> exact .next rfl

/-- Of the operations the pass, RX_READY and READ alone write PUMP's registers (R34, R36, R132). -/
theorem exec_keeps_pump_registers {i : Instr} (hpass : i ≠ .pump) (hready : i ≠ .rxReady) (hread : i ≠ .read) (s : State) :
    Ensures (exec i s) fun t => t.pump = s.pump := by
  unfold exec
  cases i with
  | pump | rxReady | read => contradiction
  | rbAvail => exact .takeRb rfl fun _ => .next rfl
  | rbWrite => exact .takeRb rfl fun _ => .withResult fun ok u hu => .next (show u.pump = s.pump from rbWriteByte_pump hu)
  | rbRead => exact .takeRb rfl fun _ => .withResult fun r u hu => .next (show u.pump = s.pump from rbReadByte_pump hu)
  | rbPeek => exact .takeRb rfl fun _ => .withResult fun r u hu => .next (show u.pump = s.pump from rbPeekByte_pump hu)
  | setup packet => exact execSetup_pump packet s
  | getLineCoding | ctrlUnhandled => exact .takeCtl rfl fun _ => .next rfl
  | setLineCoding => exact .takeCtl rfl fun _ => slcResume_pump (ctlS1 s)
  | setControlLineState v => exact .takeCtl rfl fun _ => .next (applyHeuristic_pump (ctlL1 (lowByte v) s))
  | openPort | openCfg | closePort | avail | flush | getWerr | clrWerr | appReserved => exact .takeApp rfl fun _ => .next rfl
  | peek => exact .takeApp rfl fun _ => .withResult fun r u hu => .next (show u.pump = s.pump from rbPeekByte_pump hu)
  | write => exact .takeApp rfl fun _ => .withResult fun r u hu => .next ((writeResult_pump r u).trans (sendBytes_pump hu))
  | isOpen =>
    refine .takeApp rfl fun _ => .next ?_
    split
    · rfl
    · exact sampleEarly_pump s

theorem exec_keeps_pump_registers_of_format {i : Instr} (hf : i.format = .setup ∨ i.format = .rb) (s : State) :
    Ensures (exec i s) fun t => t.pump = s.pump := by
  refine exec_keeps_pump_registers ?_ ?_ ?_ s <;>
  · rintro rfl
    simp [Instr.format] at hf

/-! ### What a pick may do to `pump_req` -/

/-- The pick `p`, taken in `s`, keeps `pump_req`; sets it with a packet's arrival, in a READ that finds data or in its step A3; or clears
it where a pass begins or with a reset (R131, R132). -/
inductive ReqMoves (p : Pick) (s t : State) : Prop
  | keeps (h : t.pump.req = s.pump.req)
  | arrives (hp : p = .packet ∨ (∃ bs, p = .pkt bs) ∨ ∃ e, p = .presentUsb e ∧ e.uEv = 0b01#2) (hfree : s.env.rxReleased = true)
      (hheld : t.env.rxReleased = false) (hset : t.pump.req = true)
  | reads (hp : p = .appOp) (hne : s.empty = false) (hdata : s.env.rxq ≠ [])
      (hport : ∃ r ws, s.ports.portA = r :: ws ∧ r.aOp = 0x5#4) (hset : t.pump.req = true)
  | triggers (hp : p = .appMicro) (hdata : s.env.rxq ≠ []) (ha : ∃ v, s.app = .readA3 v) (hset : t.pump.req = true)
  | begins (hp : p ∈ [Pick.pumpOp, .pumpMicro]) (hidle : s.pump.phase = .idle) (hc : s.ctl.phase ≠ .waitFifo)
      (hclear : t.pump.req = false)
  | resets (hp : p ∈ [Pick.rst, .fire]) (hclear : t.pump.req = false)

theorem ReqMoves.of_pump (h : t.pump = s.pump) : ReqMoves p s t := .keeps (by rw [h])

/-! ### PUMP (R133) -/

theorem pumpU2_req (s : State) : (pumpU2 s).pump.req = s.pump.req := by
  unfold pumpU2
  split <;> rfl

theorem pumpU3_req (s : State) : Ensures (pumpU3 s) fun t => t.pump.req = s.pump.req := fun t ht => by
  obtain ⟨b, rest, -, rfl⟩ := pumpU3_eq_next ht
  rfl

theorem pumpU4_req (s : State) : Ensures (pumpU4 s) fun t => t.pump.req = s.pump.req := fun t ht => by
  obtain ⟨-, rfl⟩ := pumpU4_eq_next ht
  rfl

/-- Once a pass has begun it leaves the latch alone, so that a request during the pass is not lost. -/
theorem pumpLoop_req (turns : Nat) : ∀ s : State, Ensures (pumpLoop turns s) fun t => t.pump.req = s.pump.req := by
  induction turns with
  | zero => exact fun s => .next rfl
  | succ turns ih =>
    intro s
    have hu2 : (pumpU2 (pumpU1 s)).pump.req = s.pump.req := pumpU2_req (pumpU1 s)
    unfold pumpLoop
    split_ifs
    · exact .next rfl
    · refine .andThen fun u3 ht3 => .andThen fun u4 ht4 => (ih (pumpU5 u4)).mono fun t ht => ht.trans ?_
      have hu3 : u3.pump.req = s.pump.req := (pumpU3_req _ u3 ht3).trans hu2
      exact (pumpU4_req u3 u4 ht4).trans hu3
    · exact .next hu2

theorem execPump_reqMoves (s : State) : Ensures (execPump s) (ReqMoves .pumpOp s) := by
  unfold execPump
  split
  next hready =>
    obtain ⟨hidle, hc⟩ := pumpReady_iff.mp (Bool.and_eq_true_iff.mp hready).1
    exact (pumpLoop_req _ (pumpU0 s)).mono fun t ht => .begins (by simp) hidle hc ht
  next => exact .next (.keeps rfl)

theorem pumpLabelStep_req (l : PumpLabel) (s : State) : Ensures (pumpLabelStep l s) fun t => t.pump.req = s.pump.req := by
  cases l with
  | u2 => exact .next (pumpU2_req s)
  | u3 => exact pumpU3_req s
  | u4 => exact pumpU4_req s
  | u1 | u5 | u6 => exact .next rfl

theorem pumpMicro_reqMoves (s : State) : Ensures (pumpMicro s) (ReqMoves .pumpMicro s) := by
  by_cases hc : s.ctl.phase = .waitFifo
  · exact pumpMicro_of_stall hc ▸ .next (.keeps rfl)
  · cases hp : s.pump.phase with
    | idle =>
      rw [pumpMicro_of_idle hc hp]
      refine .next ?_
      split
      · exact .begins (by simp) hp hc rfl
      · exact .keeps rfl
    | run l =>
      rw [pumpMicro_of_run hc hp]
      exact (pumpLabelStep_req l s).mono fun _ => .keeps

/-! ### APP (R191) -/

/-- A3 leaves PUMP's registers, or finds data and asks for a pass. -/
theorem readTrigger_cases (s : State) :
    (readTrigger s).pump = s.pump ∨ s.env.rxq ≠ [] ∧ (readTrigger s).pump.req = true := by
  unfold readTrigger
  split
  next hdata => exact .inr ⟨isEndpointDataAvailable_rx_iff.mp hdata, rfl⟩
  next => exact .inl rfl

/-- READ leaves PUMP's registers, or consumed a byte, found data and asks for a pass. -/
theorem execRead_cases (s : State) : Ensures (execRead s) fun t =>
    t.pump = s.pump ∨ s.empty = false ∧ s.env.rxq ≠ [] ∧ t.pump.req = true :=
  .takeApp (.inl rfl) fun _ => .withResult fun r u hu => by
    obtain ⟨-, rfl, rfl⟩ | ⟨hne, -, rfl, rfl⟩ := rbReadByte_eq_ok hu
    · exact .next (.inl rfl)
    · exact .next ((readTrigger_cases _).imp id fun h => ⟨hne, h⟩)

theorem aOp_of_decodeApp_read {p : Params} {r : AppRequest} (h : decodeApp p r = .ok .read) : r.aOp = 0x5#4 := by
  unfold decodeApp at h
  split at h
  case h_6 hop => exact BitVec.eq_of_toNat_eq hop
  case h_7 => split at h <;> cases h
  all_goals cases h

theorem runAppOp_reqMoves (s : State) : Ensures (runAppOp s) (ReqMoves .appOp s) := by
  unfold runAppOp
  split
  next =>
    refine .takeRequest (.keeps rfl) fun r ws i hport hi => ?_
    have hf := decodeApp_format hi
    by_cases hread : i = .read
    · subst hread
      refine (execRead_cases (s.setPortA ws)).mono fun t ht => ?_
      obtain h | ⟨hne, hdata, hset⟩ := ht
      · exact .of_pump h
      · exact .reads rfl hne hdata ⟨r, ws, hport, aOp_of_decodeApp_read hi⟩ hset
    · have hpass : i ≠ .pump := by rintro rfl; cases hf
      have hready : i ≠ .rxReady := by rintro rfl; cases hf
      exact (exec_keeps_pump_registers hpass hready hread (s.setPortA ws)).mono fun t ht => .of_pump ht
  next => exact .next (.keeps rfl)

theorem appA1_pump (i : Instr) (s : State) : Ensures (appA1 i s) fun t => t.pump = s.pump := by
  cases i with
  | isOpen => exact .next (isOpenA1_pump s)
  | write => exact .withResult fun r u hu => .next (show u.pump = s.pump from sendBytes_pump hu)
  | peek => exact .next (by split <;> rfl)
  | _ => exact .next rfl

theorem appNext_reqMoves (s : State) : Ensures (appNext s) (ReqMoves .appMicro s) := by
  unfold appNext
  cases ha : s.app with
  | taken i => exact (appA1_pump i s).mono fun _ => .of_pump
  | peekK2 | readD2 => exact .withTailByte (.keeps rfl)
  | readA2 r => cases r <;> exact .next (.keeps rfl)
  | readA3 v =>
    obtain h | ⟨hdata, hset⟩ := readTrigger_cases s
    · exact .next (.of_pump h)
    · exact .next (.triggers rfl hdata ⟨v, ha⟩ hset)
  | writeA2 r => exact .next (.of_pump (writeResult_pump r s))
  | isOpenA2 => exact .next (.of_pump (sampleEarly_pump s))
  | isOpenA4 t0 sample => exact .next (.of_pump (isOpenA4_pump t0 sample s))
  | idle | readD3 | readA4 | isOpenA3 => exact .next (.keeps rfl)

theorem appMicro_reqMoves (s : State) : Ensures (appMicro s) (ReqMoves .appMicro s) := by
  unfold appMicro
  split_ifs
  · exact .next (.keeps rfl)
  · exact .takeRequest (.keeps rfl) fun _ _ _ _ _ => .next (.keeps rfl)
  · exact appNext_reqMoves s

/-! ### CTRL, port U and port R -/

theorem runCtrlOp_pump (s : State) : Ensures (runCtrlOp s) fun t => t.pump = s.pump := by
  unfold runCtrlOp
  split_ifs
  · exact exec_keeps_pump_registers_of_format (.inl (decodeSetup_format ..)) s
  · exact slcResume_pump s
  · exact .next rfl

theorem uEv_of_decodeUsb_rxReady {e : UsbEvent} (h : decodeUsb e = .ok .rxReady) : e.uEv = 0b01#2 := by
  unfold decodeUsb at h
  split at h
  case h_2 hev => exact BitVec.eq_of_toNat_eq hev
  all_goals cases h

/-- An event taken from port U is no RX_READY, since none stands there. -/
theorem runUsbOp_pump (h : PortInv s) : Ensures (runUsbOp s) fun t => t.pump = s.pump := by
  unfold runUsbOp
  split
  next => exact .next rfl
  next e rest hfirst =>
    obtain ⟨pre, post, hport, -, -, -⟩ := firstTakeable_eq_some hfirst
    have hne : e.uEv ≠ 0b01#2 := h e (by simp [hport])
    split
    next i hi =>
      obtain rfl | rfl := decodeUsb_eq_ok hi
      · exact absurd (uEv_of_decodeUsb_rxReady hi) hne
      · exact execSetup_pump e.uSetup (s.setPortU rest)
    next => exact .next rfl

theorem runRbOp_pump (s : State) : Ensures (runRbOp s) fun t => t.pump = s.pump := by
  unfold runRbOp
  split
  next => exact .next rfl
  next r ws _ =>
    split
    · exact exec_keeps_pump_registers_of_format (.inr (decodeRb_format r)) (s.setPortR ws)
    · exact .next rfl

/-! ### ENV (R67, R240) -/

theorem arriveNext_reqMoves (hp : p = .packet ∨ (∃ bs, p = .pkt bs) ∨ ∃ e, p = .presentUsb e ∧ e.uEv = 0b01#2) (s : State) :
    ReqMoves p s (arriveNext s) := by
  cases hfree : s.env.rxReleased with
  | true =>
    rw [arriveNext_of_released hfree]
    exact .arrives hp hfree rfl rfl
  | false => exact .keeps (by rw [arriveNext_of_held hfree])

theorem arrive_reqMoves (bs : Bytes) (s : State) : ReqMoves (.pkt bs) s (arrive bs s) := by
  cases hfree : s.env.rxReleased with
  | true =>
    rw [arrive_of_released hfree]
    exact .arrives (.inr (.inl ⟨bs, rfl⟩)) hfree rfl rfl
  | false => exact .keeps (by rw [arrive_of_held hfree])

theorem presentUsb_reqMoves (e : UsbEvent) (s : State) : ReqMoves (.presentUsb e) s (presentUsb e s) := by
  obtain ⟨hev, heq⟩ | ⟨-, heq⟩ := presentUsb_cases e s
  · exact heq ▸ arriveNext_reqMoves (.inr (.inr ⟨e, rfl, hev⟩)) s
  · exact heq ▸ .keeps rfl

theorem fire_reqMoves (s : State) : ReqMoves .fire s (fire s) := by
  unfold fire
  split
  · exact .resets (by simp) rfl
  · exact .keeps rfl

/-! ### Picks and steps -/

theorem runPick_reqMoves (h : PortInv s) (p : Pick) : Ensures (runPick p s) (ReqMoves p s) := by
  cases p with
  | appOp => exact runAppOp_reqMoves s
  | appMicro => exact appMicro_reqMoves s
  | pumpOp => exact runPick_pumpOp s ▸ execPump_reqMoves s
  | pumpMicro => exact pumpMicro_reqMoves s
  | ctrlOp => exact (runCtrlOp_pump s).mono fun _ => .of_pump
  | ctrlMicro => exact (ctlMicro_pump s).mono fun _ => .of_pump
  | usbOp => exact (runUsbOp_pump h).mono fun _ => .of_pump
  | rbOp => exact (runRbOp_pump s).mono fun _ => .of_pump
  | presentUsb e => exact .next (presentUsb_reqMoves e s)
  | packet => exact .next (arriveNext_reqMoves (.inl rfl) s)
  | pkt bs => exact .next (arrive_reqMoves bs s)
  | presentApp | presentRb | data | tick => exact .next (.keeps rfl)
  | fire => exact .next (fire_reqMoves s)
  | rst => exact .next (.resets (by simp) rfl)

/-- Taking the pick changes only the model's own inputs, which `ReqMoves` does not read. -/
theorem step_reqMoves (h : PortInv s) (hstep : step s = .next t) : ReqMoves (nextPick s).1 s t := by
  obtain ⟨d, hd, -⟩ := nextPick_frame s
  have hrun := (step_eq_next hstep).2
  rw [hd] at hrun
  cases runPick_reqMoves (s := { s with drive := d }) h _ t hrun with
  | keeps h => exact .keeps h
  | arrives hp hfree hheld hset => exact .arrives hp hfree hheld hset
  | reads hp hne hdata hport hset => exact .reads hp hne hdata hport hset
  | triggers hp hdata ha hset => exact .triggers hp hdata ha hset
  | begins hp hidle hc hclear => exact .begins hp hidle hc hclear
  | resets hp hclear => exact .resets hp hclear

/-- Settles O32: of the moves of `pump_req`, three set it and two clear it. -/
theorem passAskedOnlyByItsTriggers : Obligations.PassAskedOnlyByItsTriggers := by
  intro s t hport hstep
  refine ⟨fun hs ht => ?_, fun hs ht => ?_⟩
  · cases step_reqMoves hport hstep with
    | keeps h => simp [hs, ht] at h
    | arrives hp hfree hheld => exact .inl ⟨hp, hfree, hheld⟩
    | reads hp hne hdata hread => exact .inr (.inl ⟨hp, hne, hdata, hread⟩)
    | triggers hp hdata ha => exact .inr (.inr ⟨hp, hdata, ha⟩)
    | begins _ _ _ hclear | resets _ hclear => simp [ht] at hclear
  · cases step_reqMoves hport hstep with
    | keeps h => simp [hs, ht] at h
    | arrives _ _ _ hset | reads _ _ _ _ hset | triggers _ _ _ hset => simp [ht] at hset
    | begins hp hidle hc => exact .inl ⟨hp, hidle, hc⟩
    | resets hp => exact .inr hp

end Sys2Proof.Machine
end

section
/-!
Proofs of the statements of 42_control_requests.md, first part: each request run whole (R150 to R168), and the micro-steps of CTRL.
-/

namespace Sys2Proof.Machine

variable {s t : State}

/-! ### The bootloader-reset heuristic (R164) -/

/-- The collaborators' state after the heuristic: only at the magic baud rate a reset is scheduled or cancelled, as DTR says. -/
def State.heuristicEnv (s : State) : Env :=
  if s.line.dwDTERate = s.params.magicBaud then
    if s.line.lineState.getLsbD 0 = false then
      { s.env with rstPending := true, rstDeadline := s.env.nowMs + s.params.resetDelayMs }
    else { s.env with rstPending := false }
  else s.env

theorem applyHeuristic_eq (s : State) : applyHeuristic s = s.setEnv s.heuristicEnv := by
  unfold applyHeuristic State.heuristicEnv LineInfo.dtr
  split
  · cases s.line.lineState.getLsbD 0 <;> rfl
  · rfl

/-! ### SET_LINE_CODING past its wait (R160) -/

/-- The request at its end: the block `d` is in the record, `q` is left in the endpoint. -/
def State.lineCodingSet (s : State) (d : LcBlock) (q : Bytes) : State := { s with
  line := s.line.decodeLC d
  ctl := { s.ctl with phase := .idle, pulled := d }
  env := { s.env with ep0q := q }
  ports := { s.ports with respU := s.ports.respU ++ [true] } }

theorem slcResume_of_complete {d : LcBlock} {q : Bytes} (hq : s.env.ep0q = d.toBytes ++ q)
    (hdata : s.params.slcThreshold ≤ s.env.ep0q.length) : slcResume s = .next (s.lineCodingSet d q) := by
  have hcount : s.params.slcThreshold ≤ s.fifoByteCount := hdata
  rw [slcResume, if_pos hcount, ctlS2_of_complete hcount, slcFinish_of_seven (s := s.setCtlPhase (.dispatch .s3)) hq]
  rfl

/-- From its wait the request goes on waiting, or finds its data stage there and ends. -/
theorem slcResume_cases (s : State) : Ensures (slcResume s) fun t =>
    t = s ∨ s.params.slcThreshold ≤ s.env.ep0q.length ∧ ∃ d q, t = s.lineCodingSet d q := fun t ht => by
  obtain hdata | hshort := le_or_gt s.params.slcThreshold s.env.ep0q.length
  · have hcount : s.params.slcThreshold ≤ s.fifoByteCount := hdata
    rw [slcResume, if_pos hcount, ctlS2_of_complete hcount] at ht
    obtain ⟨d, q, -, rfl⟩ := slcFinish_eq_next ht
    exact .inr ⟨hdata, d, q, rfl⟩
  · rw [slcResume_of_short hshort] at ht
    cases ht
    exact .inl rfl

theorem runPick_ctrlOp_of_stall (hc : s.ctl.phase = .waitFifo) : runPick .ctrlOp s = slcResume s := by
  simp [runPick, runCtrlOp, State.ctlReady, State.stall, hc]

/-! ### Requests in CTRL's hand, whole -/

section
variable (hc : s.ctl.phase = .dispatch .t2) (v x n : BitVec 16)
include hc

theorem exec_getLineCoding_in_hand : exec (.getLineCoding v x n) s = .next ((ctlG1 s).ctlReturn true) :=
  if_pos (ctlReady_iff.mpr hc)

theorem exec_setLineCoding_in_hand : exec (.setLineCoding v x n) s = slcResume (ctlS1 s) := if_pos (ctlReady_iff.mpr hc)

theorem exec_setControlLineState_in_hand :
    exec (.setControlLineState v x n) s = .next ((ctlL2 (ctlL1 (lowByte v) s)).ctlReturn true) := if_pos (ctlReady_iff.mpr hc)

theorem exec_ctrlUnhandled_in_hand (q : SetupPacket) : exec (.ctrlUnhandled q) s = .next (s.ctlReturn false) :=
  if_pos (ctlReady_iff.mpr hc)

theorem exec_setLineCoding_of_short (hshort : s.env.ep0q.length < s.params.slcThreshold) :
    exec (.setLineCoding v x n) s = .next (ctlS1 s) :=
  (exec_setLineCoding_in_hand hc v x n).trans (slcResume_of_short hshort)

theorem exec_setLineCoding_of_complete {d : LcBlock} {q : Bytes} (hq : s.env.ep0q = d.toBytes ++ q)
    (hdata : s.params.slcThreshold ≤ s.env.ep0q.length) : exec (.setLineCoding v x n) s = .next (s.lineCodingSet d q) :=
  (exec_setLineCoding_in_hand hc v x n).trans (slcResume_of_complete (s := ctlS1 s) hq hdata)

end

/-- Settles O34: an idle CTRL does T1. -/
theorem setupIsAccepted : Obligations.SetupIsAccepted := fun _ _ hc => if_pos hc

/-- Settles O35: the packet's row of R84, then G1 and G2 on the record in wire order. -/
theorem getLineCodingAnswersSevenBytes : Obligations.GetLineCodingAnswersSevenBytes :=
  ⟨fun d l w hw => ⟨_, _, _, (setupRowsByMatchAndMask d l w).trans (if_pos hw)⟩,
    fun _ v x n hc => exec_getLineCoding_in_hand hc v x n⟩

/-- Settles O36: the packet's row of R84; a short data stage stops at S1, a complete one is taken, at once or from the wait. -/
theorem setLineCodingStoresSevenBytes : Obligations.SetLineCodingStoresSevenBytes := by
  refine ⟨fun d l w hw => ⟨wValue w, wIndex w, wLength w, ?packet⟩, fun s v x n => ⟨fun hc => ?short, ?complete⟩⟩
  case packet =>
    rw [setupRowsByMatchAndMask, hw]
    rfl
  case short => exact exec_setLineCoding_of_short hc v x n
  case complete =>
    intro d0 d1 d2 d3 d4 d5 d6 q hq hdata t
    have hset : t = s.lineCodingSet ⟨d0, d1, d2, d3, d4, d5, d6⟩ q := rfl
    rw [hset]
    have hblock : s.env.ep0q = LcBlock.toBytes ⟨d0, d1, d2, d3, d4, d5, d6⟩ ++ q := hq
    exact ⟨fun hc => exec_setLineCoding_of_complete hc v x n hblock hdata,
      fun hc => (runPick_ctrlOp_of_stall hc).trans (slcResume_of_complete hblock hdata)⟩

/-- The operand of SET_CONTROL_LINE_STATE is bits 23:16 of the packet (R85). -/
theorem lineStateOperand_eq (w : SetupPacket) : lineStateOperand w = w.extractLsb' 16 8 :=
  BitVec.eq_of_getLsbD_eq fun i hi => by
    have hi16 : i < 16 := by omega
    simp [lineStateOperand, lowByte, wValue, hi, hi16]

/-- Settles O37: the packet's row of R84 and its operand, then L1, and L2 on the line state that L1 wrote. -/
theorem setControlLineStateAndHeuristic : Obligations.SetControlLineStateAndHeuristic := by
  refine ⟨fun d l w hw => ?_, lineStateOperand_eq, fun s v x n hc => ?_⟩
  · rw [setupRowsByMatchAndMask, hw]
    rfl
  · rw [exec_setControlLineState_in_hand hc, ctlL2, applyHeuristic_eq]
    rfl

/-- Settles O38: a packet outside the three rows, and the one micro-step that declines it. -/
theorem unhandledIsDeclined : Obligations.UnhandledIsDeclined := by
  refine ⟨fun d l w hw => ?_, fun s q hc => exec_ctrlUnhandled_in_hand hc q⟩
  obtain ⟨hglc, hslc, hscls⟩ : w &&& 0xFFFF#64 ≠ 0x21A1#64 ∧ w &&& 0xFFFF#64 ≠ 0x2021#64 ∧
    w &&& 0xFFFF#64 ≠ 0x2221#64 := by simpa using hw
  rw [setupRowsByMatchAndMask, if_neg hglc, if_neg hslc, if_neg hscls]

/-! ### Micro-steps (R150 to R168) -/

/-- The micro-step that a label of the request in hand stands for. -/
def ctlLabelStep : CtlLabel → State → Outcome
  | .t2, s => .next (ctlT2 s)
  | .g1, s => .next (ctlG1 s)
  | .g2, s => .next (s.ctlReturn true)
  | .s1, s => .next (ctlS1 s)
  | .s3, s => ctlS3 s
  | .s4, s => .next (ctlS4 s)
  | .s5, s => .next (s.ctlReturn true)
  | .l1, s => .next (ctlL1 (lineStateOperand s.ctl.setup) s)
  | .l2, s => .next (ctlL2 s)
  | .l3, s => .next (s.ctlReturn true)
  | .n1, s => .next (s.ctlReturn false)

theorem ctlMicro_of_idle (hc : s.ctl.phase = .idle) : ctlMicro s = .next s := by simp only [ctlMicro, hc]

theorem ctlMicro_of_dispatch {l : CtlLabel} (hc : s.ctl.phase = .dispatch l) : ctlMicro s = ctlLabelStep l s := by
  simp only [ctlMicro, hc]
  cases l <;> rfl

theorem ctlMicro_of_decode {i : Instr} (hc : s.ctl.phase = .dispatch .t2) (hi : decodeSetup s.params s.ctl.setup = i) :
    ctlMicro s = .next (s.setCtlPhase (.dispatch (firstLabel i))) := by
  rw [ctlMicro_t2 hc, ctlT2, hi]

theorem ctlS2_of_short (h : s.env.ep0q.length < s.params.slcThreshold) : ctlS2 s = s := if_neg (Nat.not_le.mpr h)

/-- Settles O42: the label decides the micro-step, T2 by the packet, S2 by the data stage, L2 by the heuristic. -/
theorem controlMicroSteps : Obligations.ControlMicroSteps := by
  intro s goes ends
  refine ⟨ctlMicro_of_idle, fun _ _ _ => ctlMicro_of_decode, fun _ _ _ => ctlMicro_of_decode, fun _ _ _ => ctlMicro_of_decode,
    fun _ => ctlMicro_of_decode, ctlMicro_of_dispatch, ctlMicro_of_dispatch, ?complete, ?short, ?s3, ctlMicro_of_dispatch, ?l1, ?l2,
    ?handled, ctlMicro_of_dispatch⟩
  case complete => exact fun hc hdata => (ctlMicro_waitFifo hc).trans (congrArg _ (ctlS2_of_complete hdata))
  case short => exact fun hc hshort => (ctlMicro_waitFifo hc).trans (congrArg _ (ctlS2_of_short hshort))
  case s3 => exact fun _ _ _ _ _ _ _ _ hc hq => (ctlMicro_of_dispatch hc).trans (ctlS3_of_seven hq)
  case l1 => exact fun hc => (ctlMicro_of_dispatch hc).trans (by rw [ctlLabelStep, lineStateOperand_eq]; rfl)
  case l2 => exact fun hc => (ctlMicro_of_dispatch hc).trans (by rw [ctlLabelStep, ctlL2, applyHeuristic_eq]; rfl)
  case handled =>
    intro hc
    obtain hc | hc | hc : s.ctl.phase = .dispatch .g2 ∨ s.ctl.phase = .dispatch .s5 ∨ s.ctl.phase = .dispatch .l3 := by
      simpa using hc
    all_goals exact ctlMicro_of_dispatch hc

end Sys2Proof.Machine
end

section
/-!
Proofs of the statements of 42_control_requests.md, second part: what an operation may change of LineInfo, of the stall and of the
pending reset, and that GET_LINE_CODING answers what SET_LINE_CODING stored (R169).
-/

namespace Sys2Proof.Machine

variable {s t u : State} {i : Instr}

/-! ### The stall and the pending reset: shared operations that leave them -/

/-- The output `stall` and the reset that is pending (R70, R216). -/
def State.stallAndReset (s : State) : Bool × Bool × Nat := (s.stall, s.env.rstPending, s.env.rstDeadline)

theorem stallAndReset_of_unstalled (hs : s.ctl.phase ≠ .waitFifo) (ht : t.ctl.phase ≠ .waitFifo)
    (hpending : t.env.rstPending = s.env.rstPending) (hdeadline : t.env.rstDeadline = s.env.rstDeadline) :
    t.stallAndReset = s.stallAndReset := by
  simp only [State.stallAndReset, stall_eq_false hs, stall_eq_false ht, hpending, hdeadline]

theorem readTrigger_stallAndReset (s : State) : (readTrigger s).stallAndReset = s.stallAndReset := by
  unfold readTrigger
  split <;> rfl

theorem sampleEarly_stallAndReset (s : State) : (sampleEarly s).2.stallAndReset = s.stallAndReset := by
  unfold sampleEarly drawEarly
  split <;> rfl

theorem writeResult_stallAndReset (r : SendAnswer) (s : State) : (writeResult r s).stallAndReset = s.stallAndReset := by
  unfold writeResult
  split <;> rfl

theorem sendBytes_stallAndReset {payload : Bytes} {r : SendAnswer} (h : sendBytes payload s = .ok (r, t)) :
    t.stallAndReset = s.stallAndReset := by
  obtain ⟨u, hu, rfl⟩ := sendBytes_eq_ok h
  obtain ⟨-, ⟨-, -, rfl⟩ | ⟨rest, -, rfl⟩⟩ := drawSend_eq_ok hu <;> rfl

theorem rbReadByte_stallAndReset {r : Option Byte} (h : rbReadByte s = .ok (r, t)) : t.stallAndReset = s.stallAndReset := by
  obtain ⟨-, -, rfl⟩ | ⟨-, -, -, rfl⟩ := rbReadByte_eq_ok h <;> rfl

theorem rbPeekByte_stallAndReset {r : Option Byte} (h : rbPeekByte s = .ok (r, t)) : t.stallAndReset = s.stallAndReset := by
  obtain ⟨rfl, -⟩ := rbPeekByte_eq_ok h
  rfl

theorem rbWriteByte_stallAndReset {b : Byte} {ok : Bool} (h : rbWriteByte b s = .ok (ok, t)) :
    t.stallAndReset = s.stallAndReset := by
  obtain ⟨-, -, rfl⟩ | ⟨-, -, -, rfl⟩ := rbWriteByte_eq_ok h <;> rfl

theorem pumpLabelStep_stallAndReset (l : PumpLabel) (s : State) :
    Ensures (pumpLabelStep l s) fun t => t.stallAndReset = s.stallAndReset := by
  cases l with
  | u1 | u5 | u6 => exact .next rfl
  | u2 =>
    refine .next ?_
    unfold pumpU2
    split <;> rfl
  | u3 =>
    intro t ht
    obtain ⟨b, rest, -, rfl⟩ := pumpU3_eq_next ht
    rfl
  | u4 =>
    intro t ht
    obtain ⟨-, rfl⟩ := pumpU4_eq_next ht
    rfl

theorem pumpLoop_stallAndReset (turns : Nat) : ∀ s : State,
    Ensures (pumpLoop turns s) fun t => t.stallAndReset = s.stallAndReset := by
  induction turns with
  | zero => exact fun s => .next rfl
  | succ turns ih =>
    intro s
    have hu2 : (pumpU2 (pumpU1 s)).stallAndReset = s.stallAndReset := pumpLabelStep_stallAndReset .u2 (pumpU1 s) _ rfl
    unfold pumpLoop
    split_ifs
    · exact .next rfl
    · refine .andThen fun u3 ht3 => .andThen fun u4 ht4 => (ih (pumpU5 u4)).mono fun t ht => ht.trans ?_
      have hu3 : u3.stallAndReset = s.stallAndReset := (pumpLabelStep_stallAndReset .u3 _ u3 ht3).trans hu2
      exact (pumpLabelStep_stallAndReset .u4 u3 u4 ht4).trans hu3
    · exact .next hu2

theorem execPump_stallAndReset (s : State) : Ensures (execPump s) fun t => t.stallAndReset = s.stallAndReset := by
  unfold execPump
  split
  · exact pumpLoop_stallAndReset _ (pumpU0 s)
  · exact .next rfl

/-- A SETUP moves CTRL from IDLE to T2, neither of which stalls (R150). -/
theorem execSetup_stallAndReset (packet : SetupPacket) (s : State) :
    Ensures (execSetup packet s) fun t => t.stallAndReset = s.stallAndReset := by
  unfold execSetup
  split
  next hc => exact .next (stallAndReset_of_unstalled (by simp [hc]) (by simp [ctlT1]) rfl rfl)
  next => exact .next rfl

/-! ### Whole operations -/

/-- The stall and the pending reset are changed by SET_LINE_CODING and SET_CONTROL_LINE_STATE alone. -/
theorem exec_keeps_stallAndReset (hslc : ¬∃ v x n, i = .setLineCoding v x n) (hscls : ¬∃ v x n, i = .setControlLineState v x n)
    (s : State) : Ensures (exec i s) fun t => t.stallAndReset = s.stallAndReset := by
  unfold exec
  cases i with
  | setLineCoding | setControlLineState => simp at hslc hscls
  | getLineCoding | ctrlUnhandled =>
    refine .takeCtl rfl fun hready => .next ?_
    exact stallAndReset_of_unstalled (by simp [ctlReady_iff.mp hready]) (by simp) rfl rfl
  | setup packet => exact execSetup_stallAndReset packet s
  | rbAvail => exact .takeRb rfl fun _ => .next rfl
  | rbWrite => exact .takeRb rfl fun _ => .withResult fun ok u hu => .next (rbWriteByte_stallAndReset hu :)
  | rbRead => exact .takeRb rfl fun _ => .withResult fun r u hu => .next (rbReadByte_stallAndReset hu :)
  | rbPeek => exact .takeRb rfl fun _ => .withResult fun r u hu => .next (rbPeekByte_stallAndReset hu :)
  | rxReady => exact .next rfl
  | pump => exact execPump_stallAndReset s
  | openPort | openCfg | closePort | avail | flush | getWerr | clrWerr | appReserved => exact .takeApp rfl fun _ => .next rfl
  | peek => exact .takeApp rfl fun _ => .withResult fun r u hu => .next (rbPeekByte_stallAndReset hu :)
  | read =>
    refine .takeApp rfl fun _ => .withResult fun r u hu => ?_
    have hread := rbReadByte_stallAndReset hu
    cases r with
    | none => exact .next hread
    | some v => exact .next ((readTrigger_stallAndReset u).trans hread)
  | write =>
    exact .takeApp rfl fun _ => .withResult fun r u hu =>
      .next ((writeResult_stallAndReset r u).trans (sendBytes_stallAndReset hu))
  | isOpen =>
    refine .takeApp rfl fun _ => .next ?_
    split
    · rfl
    · exact sampleEarly_stallAndReset s

/-- SET_LINE_CODING leaves the line state and the pending reset. -/
theorem execSetLineCoding_frame (v x n : BitVec 16) (s : State) : Ensures (execSetLineCoding v x n s) fun t =>
    t.line.lineState = s.line.lineState ∧ t.env.rstPending = s.env.rstPending ∧ t.env.rstDeadline = s.env.rstDeadline ∧
    t.app = s.app :=
  .takeCtl ⟨rfl, rfl, rfl, rfl⟩ fun _ => (slcResume_cases (ctlS1 s)).mono (by
    rintro t (rfl | ⟨-, d, q, rfl⟩)
    · exact ⟨rfl, rfl, rfl, rfl⟩
    · exact ⟨rfl, rfl, rfl, rfl⟩)

/-- SET_CONTROL_LINE_STATE leaves the line coding and begins no stall. -/
theorem execSetControlLineState_frame (v x n : BitVec 16) (s : State) : Ensures (execSetControlLineState v x n s) fun t =>
    { t.line with lineState := s.line.lineState } = s.line ∧ (t.ctl.phase = .idle ∨ t.ctl = s.ctl) ∧ t.app = s.app :=
  .takeCtl ⟨rfl, .inr rfl, rfl⟩ fun _ => .next (by
    rw [ctlL2, applyHeuristic_eq]
    exact ⟨rfl, .inl rfl, rfl⟩)

theorem line_mem_opWrites (h : .line ∈ opWrites i) :
    (∃ v x n, i = .setLineCoding v x n) ∨ ∃ v x n, i = .setControlLineState v x n := by
  cases i <;> simp_all [opWrites]

theorem exec_keeps_lineCoding (hslc : ¬∃ v x n, i = .setLineCoding v x n) (s : State) :
    Ensures (exec i s) fun t => { t.line with lineState := s.line.lineState } = s.line := fun t ht => by
  by_cases hline : t.line = s.line
  case pos => exact congrArg (fun l : LineInfo => { l with lineState := s.line.lineState }) hline
  case neg =>
    obtain hi | ⟨v, x, n, rfl⟩ := line_mem_opWrites ((exec_writesOnly i s t ht).line_mem hline)
    · exact absurd hi hslc
    · exact (execSetControlLineState_frame v x n s t ht).1

theorem exec_keeps_lineState (hscls : ¬∃ v x n, i = .setControlLineState v x n) (s : State) :
    Ensures (exec i s) fun t => t.line.lineState = s.line.lineState := fun t ht => by
  by_cases hline : t.line = s.line
  case pos => exact congrArg LineInfo.lineState hline
  case neg =>
    obtain ⟨v, x, n, rfl⟩ | hi := line_mem_opWrites ((exec_writesOnly i s t ht).line_mem hline)
    · exact (execSetLineCoding_frame v x n s t ht).1
    · exact absurd hi hscls

theorem exec_keeps_pendingReset (hscls : ¬∃ v x n, i = .setControlLineState v x n) (s : State) :
    Ensures (exec i s) fun t => t.env.rstPending = s.env.rstPending ∧ t.env.rstDeadline = s.env.rstDeadline := fun t ht => by
  by_cases hslc : ∃ v x n, i = .setLineCoding v x n
  case pos =>
    obtain ⟨v, x, n, rfl⟩ := hslc
    obtain ⟨-, hpending, hdeadline, -⟩ := execSetLineCoding_frame v x n s t ht
    exact ⟨hpending, hdeadline⟩
  case neg => exact Prod.mk.inj (congrArg Prod.snd (exec_keeps_stallAndReset hslc hscls s t ht))

theorem exec_begins_no_stall (hslc : ¬∃ v x n, i = .setLineCoding v x n) (hs : s.ctl.phase ≠ .waitFifo) :
    Ensures (exec i s) fun t => t.ctl.phase ≠ .waitFifo := fun t ht => by
  by_cases hscls : ∃ v x n, i = .setControlLineState v x n
  case pos =>
    obtain ⟨v, x, n, rfl⟩ := hscls
    obtain ⟨-, hidle | hsame, -⟩ := execSetControlLineState_frame v x n s t ht
    · simp [hidle]
    · rwa [hsame]
  case neg =>
    have hstall : t.stall = s.stall := congrArg Prod.fst (exec_keeps_stallAndReset hslc hscls s t ht)
    rw [stall_eq_false hs] at hstall
    exact fun hc => by simp [stall_iff.mpr hc] at hstall

theorem exec_request_app (hf : i.format = .setup) (s : State) : Ensures (exec i s) fun t => t.app = s.app := by
  unfold exec
  cases i with
  | getLineCoding | ctrlUnhandled => exact .takeCtl rfl fun _ => .next rfl
  | setLineCoding v x n => exact (execSetLineCoding_frame v x n s).mono fun t ⟨_, _, _, happ⟩ => happ
  | setControlLineState v x n => exact (execSetControlLineState_frame v x n s).mono fun t ⟨_, _, happ⟩ => happ
  | _ => cases hf

/-- Settles O40: each of LineInfo's two parts, the pending reset and the stall is kept by every operation but its own, and the other
agents' fields by every request. -/
theorem controlStateHasOneWriterEach : Obligations.ControlStateHasOneWriterEach := by
  intro i s t h
  refine ⟨fun hne => ?lineCoding, fun hne => ?lineState, fun hne => ?reset, fun hs ht => ?stall, fun hf => ?others⟩
  case lineCoding => exact by_contra fun hslc => hne (exec_keeps_lineCoding hslc s t h)
  case lineState => exact by_contra fun hscls => hne (exec_keeps_lineState hscls s t h)
  case reset =>
    by_contra hscls
    obtain ⟨hpending, hdeadline⟩ := exec_keeps_pendingReset hscls s t h
    exact hne.elim (absurd hpending) (absurd hdeadline)
  case stall => exact by_contra fun hslc => exec_begins_no_stall hslc hs t h ht
  case others =>
    have hsub := opWrites_subset_of_request hf
    have hcarries := exec_carries (fun hb => by simpa using hsub hb) (fun ht => by simpa using hsub ht) s t h
    have hwerr := (exec_writesOnly i s t h).writeError fun hw => by simpa using hsub hw
    obtain ⟨-, hring, -⟩ := receiveSide_eq_iff.mp hcarries.receiveSide
    exact ⟨hring, exec_keeps_pump_registers_of_format (.inl hf) s t h, hwerr, exec_request_app hf s t h⟩

/-! ### GET_LINE_CODING after SET_LINE_CODING (R169 (d)) -/

/-- The seven bytes do not depend on the line state. -/
theorem exec_keeps_encodeLC (hslc : ¬∃ v x n, i = .setLineCoding v x n) (s : State) :
    Ensures (exec i s) fun t => t.line.encodeLC = s.line.encodeLC :=
  (exec_keeps_lineCoding hslc s).mono fun _ ht => (congrArg LineInfo.encodeLC ht :)

/-- The picks that may come between: arrivals, Ticks, and micro-steps of APP and PUMP, none of which owns LineInfo (R39). -/
theorem runPick_keeps_line {p : Pick} (s : State)
    (hp : (∃ bs, p = .data bs) ∨ (∃ bs, p = .pkt bs) ∨ p ∈ [Pick.packet, .tick, .appMicro, .pumpMicro]) :
    Ensures (runPick p s) fun t => t.line = s.line := by
  have hnoreset : p ∉ [Pick.rst, .fire] := by
    rintro hr
    obtain rfl | rfl : p = .rst ∨ p = .fire := by simpa using hr
    all_goals simp at hp
  have hnoline : .line ∉ pickWrites s.ports.portR p := fun hl => by
    obtain rfl | rfl : p = .ctrlOp ∨ p = .ctrlMicro := by simpa using line_mem_pickWrites hl
    all_goals simp at hp
  exact (runPick_writesOnly hnoreset s).mono fun t ht => ht.line hnoline

theorem execBetween_keeps_encodeLC (between : List (Instr ⊕ Pick)) : ∀ s : State,
    (∀ i, .inl i ∈ between → ∀ a b c, i ≠ .setLineCoding a b c) →
    (∀ p, .inr p ∈ between → (∃ bs, p = .data bs) ∨ (∃ bs, p = .pkt bs) ∨ p ∈ [Pick.packet, .tick, .appMicro, .pumpMicro]) →
    Ensures (execBetween between s) fun t => t.line.encodeLC = s.line.encodeLC := by
  induction between with
  | nil => exact fun s _ _ => .next rfl
  | cons e rest ih =>
    intro s hops hpicks
    have hrest := fun u : State => ih u (fun i hi => hops i (.tail e hi)) (fun p hp => hpicks p (.tail e hp))
    cases e with
    | inl i =>
      have hslc : ¬∃ v x n, i = .setLineCoding v x n := fun ⟨v, x, n, hi⟩ => hops i (.head rest) v x n hi
      exact .andThen ((exec_keeps_encodeLC hslc s).mono fun u hu => (hrest u).mono fun _ ht => ht.trans hu)
    | inr p =>
      have hp := hpicks p (.head rest)
      exact .andThen ((runPick_keeps_line s hp).mono fun u hu => (hrest u).mono fun _ ht =>
        ht.trans (congrArg LineInfo.encodeLC hu))

theorem getLineCoding_answers (hc : s.ctl.phase = .dispatch .t2) {d : LcBlock} (hd : s.line.encodeLC = d) (v x n : BitVec 16) :
    ∃ t, exec (.getLineCoding v x n) s = .next t ∧ t.env.ctlIn = s.env.ctlIn ++ [d.toBytes] :=
  ⟨_, exec_getLineCoding_in_hand hc v x n, hd ▸ rfl⟩

/-- Settles O39: the record holds the block at the request's end, what comes between keeps its seven bytes, and G1 answers them. -/
theorem getAnswersWhatSetStored : Obligations.GetAnswersWhatSetStored := by
  intro s v x n v' x' n' d0 d1 d2 d3 d4 d5 d6 rest hq hdata _
  let d : LcBlock := ⟨d0, d1, d2, d3, d4, d5, d6⟩
  have hblock : s.env.ep0q = d.toBytes ++ rest := hq
  have hstored : (s.lineCodingSet d rest).line.encodeLC = d := encodeLC_decodeLC s.line d
  refine ⟨s.lineCodingSet d rest, fun hc => ?atOnce, fun hc => ?afterWait, fun between u hops hpicks hu hc => ?between,
    fun q => ?next⟩
  case atOnce => exact exec_setLineCoding_of_complete hc v x n hblock hdata
  case afterWait => exact (runPick_ctrlOp_of_stall hc).trans (slcResume_of_complete hblock hdata)
  case between =>
    have hkept := execBetween_keeps_encodeLC between _ hops hpicks u hu
    exact getLineCoding_answers hc (hkept.trans hstored) v' x' n'
  case next =>
    obtain ⟨w, hw, hctlIn⟩ := getLineCoding_answers (s := ctlT1 q (s.lineCodingSet d rest)) rfl hstored v' x' n'
    have hsetup : exec (.setup q) (s.lineCodingSet d rest) = .next (ctlT1 q (s.lineCodingSet d rest)) := setupIsAccepted _ q rfl
    exact ⟨w, by simp only [execAll, hsetup, hw, andThen_next], hctlIn⟩

end Sys2Proof.Machine
end

section
/-!
Proofs of the statements of 42_control_requests.md, last part: the only steps that begin and end a stall, and that change the pending
reset (R161, R164, R216).
-/

namespace Sys2Proof.Machine

variable {s t : State} {p : Pick} {i : Instr}

/-! ### The request in CTRL's hand -/

theorem decodeSetup_cases (p : Params) (w : SetupPacket) :
    (∃ v x n, decodeSetup p w = .getLineCoding v x n) ∨ (∃ v x n, decodeSetup p w = .setLineCoding v x n) ∨
    (∃ v x n, decodeSetup p w = .setControlLineState v x n) ∨ decodeSetup p w = .ctrlUnhandled w := by
  unfold decodeSetup
  split_ifs <;> simp

theorem exists_setLineCoding_of_firstLabel {p : Params} {w : SetupPacket} (h : firstLabel (decodeSetup p w) = .s1) :
    ∃ v x n, decodeSetup p w = .setLineCoding v x n := by
  obtain ⟨v, x, n, hi⟩ | hi | ⟨v, x, n, hi⟩ | hi := decodeSetup_cases p w
  case inr.inl => exact hi
  all_goals simp [hi, firstLabel] at h

theorem exists_setControlLineState_of_firstLabel {p : Params} {w : SetupPacket} (h : firstLabel (decodeSetup p w) = .l1) :
    ∃ v x n, decodeSetup p w = .setControlLineState v x n := by
  obtain ⟨v, x, n, hi⟩ | ⟨v, x, n, hi⟩ | hi | hi := decodeSetup_cases p w
  case inr.inr.inl => exact hi
  all_goals simp [hi, firstLabel] at h

theorem ctlInv_s1 (hc : s.ctl.phase = .dispatch .s1) (h : CtlInv s) : firstLabel (decodeSetup s.params s.ctl.setup) = .s1 := by
  simpa only [CtlInv, hc] using h

theorem ctlInv_l2 (hc : s.ctl.phase = .dispatch .l2) (h : CtlInv s) : firstLabel (decodeSetup s.params s.ctl.setup) = .l1 := by
  simpa only [CtlInv, hc] using h

/-! ### What a pick may do to the stall and to the pending reset -/

/-- The pick `p`, taken in `s`, keeps the stall and the pending reset; ends a stall whose data stage is there; begins one in
SET_LINE_CODING; applies the heuristic in SET_CONTROL_LINE_STATE; or resets. -/
inductive ControlMoves (p : Pick) (s t : State) : Prop
  | keeps (hstall : t.stall = s.stall) (hpending : t.env.rstPending = s.env.rstPending)
  | ends (hp : p ∈ [Pick.ctrlOp, .ctrlMicro]) (hstalled : s.stall = true) (hdata : s.params.slcThreshold ≤ s.env.ep0q.length)
      (hpending : t.env.rstPending = s.env.rstPending)
  | begins (hp : p ∈ [Pick.ctrlOp, .ctrlMicro])
      (hsel : CtlInv s → ∃ v x n, decodeSetup s.params s.ctl.setup = .setLineCoding v x n)
      (hstalled : t.stall = true) (hpending : t.env.rstPending = s.env.rstPending)
  | heuristic (hlabel : p = .ctrlOp ∧ s.ctl.phase = .dispatch .t2 ∨ p = .ctrlMicro ∧ s.ctl.phase = .dispatch .l2)
      (hsel : CtlInv s → ∃ v x n, decodeSetup s.params s.ctl.setup = .setControlLineState v x n)
      (hmagic : s.line.dwDTERate = s.params.magicBaud) (hstall : t.stall = s.stall)
      (hset : t.env.rstPending = !t.line.lineState.getLsbD 0)
  | resets (hp : p ∈ [Pick.rst, .fire]) (hstall : t.stall = false) (hpending : t.env.rstPending = false)

namespace ControlMoves

theorem of_stallAndReset (h : t.stallAndReset = s.stallAndReset) : ControlMoves p s t :=
  .keeps (congrArg (·.1) h) (congrArg (·.2.1) h)

theorem of_unstalled (hs : s.ctl.phase ≠ .waitFifo) (ht : t.ctl.phase ≠ .waitFifo)
    (hpending : t.env.rstPending = s.env.rstPending) : ControlMoves p s t :=
  .keeps (by rw [stall_eq_false hs, stall_eq_false ht]) hpending

end ControlMoves

/-! ### CTRL -/

theorem heuristicEnv_rstPending_cases (s : State) : s.heuristicEnv.rstPending = s.env.rstPending ∨
    s.line.dwDTERate = s.params.magicBaud ∧ s.heuristicEnv.rstPending = !s.line.lineState.getLsbD 0 := by
  unfold State.heuristicEnv
  split_ifs with hmagic hdtr
  · exact .inr ⟨hmagic, by rw [hdtr]; rfl⟩
  · exact .inr ⟨hmagic, by rw [Bool.eq_true_of_not_eq_false hdtr]; rfl⟩
  · exact .inl rfl

theorem slcResume_controlMoves (hp : p ∈ [Pick.ctrlOp, .ctrlMicro]) (hc : s.ctl.phase = .waitFifo) :
    Ensures (slcResume s) (ControlMoves p s) :=
  (slcResume_cases s).mono (by
    rintro t (rfl | ⟨hdata, d, q, rfl⟩)
    · exact .keeps rfl rfl
    · exact .ends hp (stall_iff.mpr hc) hdata rfl)

theorem runCtrlOp_controlMoves (s : State) : Ensures (runCtrlOp s) (ControlMoves .ctrlOp s) := by
  unfold runCtrlOp
  split_ifs with hready hstall
  · have hc := ctlReady_iff.mp hready
    have hs : s.ctl.phase ≠ .waitFifo := by simp [hc]
    obtain ⟨v, x, n, hi⟩ | ⟨v, x, n, hi⟩ | ⟨v, x, n, hi⟩ | hi := decodeSetup_cases s.params s.ctl.setup <;> rw [hi]
    · rw [exec_getLineCoding_in_hand hc]
      exact .next (.of_unstalled hs (by simp) rfl)
    · rw [exec_setLineCoding_in_hand hc]
      refine (slcResume_cases (ctlS1 s)).mono ?_
      rintro t (rfl | ⟨-, d, q, rfl⟩)
      · exact .begins (by simp) (fun _ => ⟨v, x, n, hi⟩) rfl rfl
      · exact .of_unstalled hs (by simp [State.lineCodingSet]) rfl
    · rw [exec_setControlLineState_in_hand hc, ctlL2, applyHeuristic_eq]
      obtain hkept | ⟨hmagic, hset⟩ := heuristicEnv_rstPending_cases (ctlL1 (lowByte v) s)
      · exact .next (.of_unstalled hs (by simp) hkept)
      · exact .next (.heuristic (.inl ⟨rfl, hc⟩) (fun _ => ⟨v, x, n, hi⟩) hmagic (stall_eq_false hs).symm hset)
    · rw [exec_ctrlUnhandled_in_hand hc]
      exact .next (.of_unstalled hs (by simp) rfl)
  · exact slcResume_controlMoves (by simp) (stall_iff.mp hstall)
  · exact .next (.keeps rfl rfl)

theorem ctlMicro_controlMoves (s : State) : Ensures (ctlMicro s) (ControlMoves .ctrlMicro s) := by
  cases hc : s.ctl.phase with
  | idle => exact ctlMicro_of_idle hc ▸ .next (.keeps rfl rfl)
  | waitFifo =>
    rw [ctlMicro_waitFifo hc]
    obtain hdata | hshort := le_or_gt s.params.slcThreshold s.env.ep0q.length
    · rw [ctlS2_of_complete hdata]
      exact .next (.ends (by simp) (stall_iff.mpr hc) hdata rfl)
    · rw [ctlS2_of_short hshort]
      exact .next (.keeps rfl rfl)
  | dispatch l =>
    have hs : s.ctl.phase ≠ .waitFifo := by simp [hc]
    rw [ctlMicro_of_dispatch hc]
    cases l with
    | s1 => exact .next (.begins (by simp) (fun h => exists_setLineCoding_of_firstLabel (ctlInv_s1 hc h)) rfl rfl)
    | s3 =>
      intro t ht
      obtain ⟨d, q, -, rfl⟩ := ctlS3_eq_next ht
      exact .of_unstalled hs (by simp) rfl
    | l2 =>
      rw [ctlLabelStep, ctlL2, applyHeuristic_eq]
      obtain hkept | ⟨hmagic, hset⟩ := heuristicEnv_rstPending_cases s
      · exact .next (.of_unstalled hs (by simp) hkept)
      · have hsel := fun h : CtlInv s => exists_setControlLineState_of_firstLabel (ctlInv_l2 hc h)
        exact .next (.heuristic (.inr ⟨rfl, hc⟩) hsel hmagic (stall_eq_false hs).symm hset)
    | t2 => exact .next (.of_unstalled hs (by simp [ctlT2]) rfl)
    | g1 => exact .next (.of_unstalled hs (by simp [ctlG1]) rfl)
    | s4 => exact .next (.of_unstalled hs (by simp [ctlS4]) rfl)
    | l1 => exact .next (.of_unstalled hs (by simp [ctlL1]) rfl)
    | g2 | s5 | l3 | n1 => exact .next (.of_unstalled hs (by simp) rfl)

/-! ### APP, PUMP and the ports -/

theorem exec_keeps_stallAndReset_of_format (hf : i.format ≠ .setup) (s : State) :
    Ensures (exec i s) fun t => t.stallAndReset = s.stallAndReset := by
  refine exec_keeps_stallAndReset ?_ ?_ s
  · rintro ⟨v, x, n, rfl⟩
    exact hf rfl
  · rintro ⟨v, x, n, rfl⟩
    exact hf rfl

theorem runAppOp_stallAndReset (s : State) : Ensures (runAppOp s) fun t => t.stallAndReset = s.stallAndReset := by
  unfold runAppOp
  split
  · refine .takeRequest rfl fun r ws i _ hi => exec_keeps_stallAndReset_of_format ?_ (s.setPortA ws)
    rw [decodeApp_format hi]
    decide
  · exact .next rfl

theorem appA1_stallAndReset (i : Instr) (s : State) : Ensures (appA1 i s) fun t => t.stallAndReset = s.stallAndReset := by
  cases i with
  | isOpen =>
    refine .next ?_
    unfold isOpenA1
    split <;> rfl
  | write => exact .withResult fun r u hu => .next (sendBytes_stallAndReset hu :)
  | peek => exact .next (by split <;> rfl)
  | _ => exact .next rfl

theorem appNext_stallAndReset (s : State) : Ensures (appNext s) fun t => t.stallAndReset = s.stallAndReset := by
  unfold appNext
  cases s.app with
  | taken i => exact appA1_stallAndReset i s
  | peekK2 | readD2 => exact .withTailByte rfl
  | readA2 r => cases r <;> exact .next rfl
  | readA3 v => exact .next (readTrigger_stallAndReset s)
  | writeA2 r => exact .next (writeResult_stallAndReset r s)
  | isOpenA2 => exact .next (sampleEarly_stallAndReset s)
  | isOpenA4 t0 sample =>
    refine .next ?_
    unfold isOpenA4
    split <;> rfl
  | idle | readD3 | readA4 | isOpenA3 => exact .next rfl

theorem appMicro_stallAndReset (s : State) : Ensures (appMicro s) fun t => t.stallAndReset = s.stallAndReset := by
  unfold appMicro
  split_ifs
  · exact .next rfl
  · exact .takeRequest rfl fun _ _ _ _ _ => .next rfl
  · exact appNext_stallAndReset s

theorem pumpMicro_stallAndReset (s : State) : Ensures (pumpMicro s) fun t => t.stallAndReset = s.stallAndReset := by
  by_cases hc : s.ctl.phase = .waitFifo
  · exact pumpMicro_of_stall hc ▸ .next rfl
  · cases hp : s.pump.phase with
    | idle => exact pumpMicro_of_idle hc hp ▸ .next (by split <;> rfl)
    | run l => exact pumpMicro_of_run hc hp ▸ pumpLabelStep_stallAndReset l s

theorem runUsbOp_stallAndReset (s : State) : Ensures (runUsbOp s) fun t => t.stallAndReset = s.stallAndReset := by
  unfold runUsbOp
  split
  next => exact .next rfl
  next e rest _ =>
    split
    next i hi =>
      obtain rfl | rfl := decodeUsb_eq_ok hi
      · exact .next rfl
      · exact execSetup_stallAndReset e.uSetup (s.setPortU rest)
    next => exact .next rfl

theorem runRbOp_stallAndReset (s : State) : Ensures (runRbOp s) fun t => t.stallAndReset = s.stallAndReset := by
  unfold runRbOp
  split
  next => exact .next rfl
  next r ws _ =>
    split
    · exact exec_keeps_stallAndReset_of_format (by rw [decodeRb_format]; decide) (s.setPortR ws)
    · exact .next rfl

/-! ### ENV (R67, R240) -/

theorem arrive_stallAndReset (bs : Bytes) (s : State) : (arrive bs s).stallAndReset = s.stallAndReset := by
  unfold arrive
  split <;> rfl

theorem drawPacket_stallAndReset (s : State) : (drawPacket s).2.stallAndReset = s.stallAndReset := by
  unfold drawPacket
  split <;> rfl

theorem arriveNext_stallAndReset (s : State) : (arriveNext s).stallAndReset = s.stallAndReset := by
  unfold arriveNext
  split
  · exact (arrive_stallAndReset _ _).trans (drawPacket_stallAndReset s)
  · rfl

theorem presentUsb_stallAndReset (e : UsbEvent) (s : State) : (presentUsb e s).stallAndReset = s.stallAndReset := by
  obtain ⟨-, heq⟩ | ⟨-, heq⟩ := presentUsb_cases e s
  · rw [heq, arriveNext_stallAndReset]
  · rw [heq]
    rfl

theorem fire_controlMoves (s : State) : ControlMoves .fire s (fire s) := by
  unfold fire
  split
  · exact .resets (by simp) rfl rfl
  · exact .keeps rfl rfl

/-! ### Picks and steps -/

theorem runPick_controlMoves (p : Pick) (s : State) : Ensures (runPick p s) (ControlMoves p s) := by
  cases p with
  | appOp => exact (runAppOp_stallAndReset s).mono fun _ => .of_stallAndReset
  | appMicro => exact (appMicro_stallAndReset s).mono fun _ => .of_stallAndReset
  | pumpOp => exact runPick_pumpOp s ▸ (execPump_stallAndReset s).mono fun _ => .of_stallAndReset
  | pumpMicro => exact (pumpMicro_stallAndReset s).mono fun _ => .of_stallAndReset
  | ctrlOp => exact runCtrlOp_controlMoves s
  | ctrlMicro => exact ctlMicro_controlMoves s
  | usbOp => exact (runUsbOp_stallAndReset s).mono fun _ => .of_stallAndReset
  | rbOp => exact (runRbOp_stallAndReset s).mono fun _ => .of_stallAndReset
  | presentUsb e => exact .next (.of_stallAndReset (presentUsb_stallAndReset e s))
  | packet => exact .next (.of_stallAndReset (arriveNext_stallAndReset s))
  | pkt bs => exact .next (.of_stallAndReset (arrive_stallAndReset bs s))
  | presentApp | presentRb | data | tick => exact .next (.keeps rfl rfl)
  | fire => exact .next (fire_controlMoves s)
  | rst => exact .next (.resets (by simp) rfl rfl)

/-- Taking the pick changes only the model's own inputs, which `ControlMoves` does not read. -/
theorem step_controlMoves (hstep : step s = .next t) : ControlMoves (nextPick s).1 s t := by
  obtain ⟨d, hd, -⟩ := nextPick_frame s
  have hrun := (step_eq_next hstep).2
  rw [hd] at hrun
  cases runPick_controlMoves _ _ t hrun with
  | keeps hstall hpending => exact .keeps hstall hpending
  | ends hp hstalled hdata hpending => exact .ends hp hstalled hdata hpending
  | begins hp hsel hstalled hpending => exact .begins hp hsel hstalled hpending
  | heuristic hlabel hsel hmagic hstall hset => exact .heuristic hlabel hsel hmagic hstall hset
  | resets hp hstall hpending => exact .resets hp hstall hpending

/-- Settles O18: of the moves two end a stall. -/
theorem stallEndsOnlyByDataOrReset : Obligations.StallEndsOnlyByDataOrReset := by
  intro s t hstep hs ht
  have hs' : s.stall = true := stall_iff.mpr hs
  have ht' : t.stall = false := stall_eq_false ht
  cases step_controlMoves hstep with
  | keeps hstall | heuristic _ _ _ hstall => simp [hs', ht'] at hstall
  | ends hp _ hdata => exact .inl ⟨hp, hdata⟩
  | begins _ _ hstalled => simp [ht'] at hstalled
  | resets hp => exact .inr hp

/-- Settles O19: of the moves one begins a stall. -/
theorem stallBeginsOnlyInSetLineCoding : Obligations.StallBeginsOnlyInSetLineCoding := by
  intro s t hinv hstep hs ht
  have hs' : s.stall = false := stall_eq_false hs
  have ht' : t.stall = true := stall_iff.mpr ht
  cases step_controlMoves hstep with
  | keeps hstall | heuristic _ _ _ hstall => simp [hs', ht'] at hstall
  | ends _ hstalled => simp [hs'] at hstalled
  | begins hp hsel => exact ⟨hp, hsel hinv.ctl⟩
  | resets _ hstall => simp [ht'] at hstall

/-- Settles O41: of the moves two change the pending reset. -/
theorem pendingResetChangesOnlyByHeuristic : Obligations.PendingResetChangesOnlyByHeuristic := by
  intro s t hinv hstep hne
  cases step_controlMoves hstep with
  | keeps _ hpending | ends _ _ _ hpending | begins _ _ _ hpending => exact absurd hpending hne
  | heuristic hlabel hsel hmagic _ hset => exact .inl ⟨hlabel, hsel hinv, hmagic, hset⟩
  | resets hp _ hpending => exact .inr ⟨hp, hpending⟩

end Sys2Proof.Machine
end

section
/-!
Proofs of the statements of 43_serial_facade.md, first part: the receive side and the transmit side cannot see each other (R207 (i)). Each
side is a set of fields, and the other side's operations commute with any change of them, whether they answer a next state or stop.
-/

namespace Sys2Proof.Machine

variable {s : State} {i : Instr}

/-! ### A change of the state carried over an outcome -/

/-- The outcome with `f` applied to its next state; a stop stays. -/
def mapNext (f : State → State) : Outcome → Outcome
  | .next t => .next (f t)
  | .fault e => .fault e
  | .refused e => .refused e

/-- A call's result with `f` applied to its state; a fault stays. -/
def mapResult {α : Type} (f : State → State) (r : Except Fault (α × State)) : Except Fault (α × State) := r.map (Prod.map id f)

section
variable {f : State → State} {k : State → Outcome}

theorem andThen_mapNext (hk : ∀ t, k (f t) = mapNext f (k t)) (o : Outcome) : andThen (mapNext f o) k = mapNext f (andThen o k) := by
  cases o with
  | next t => exact hk t
  | fault | refused => rfl

theorem withResult_mapResult {α : Type} {g : α → State → Outcome} (hg : ∀ a t, g a (f t) = mapNext f (g a t))
    (r : Except Fault (α × State)) : withResult (mapResult f r) g = mapNext f (withResult r g) := by
  match r with
  | .ok (a, t) => exact hg a t
  | .error _ => rfl

/-- A change that leaves the taking alone commutes with a command if it commutes with what the command does. -/
theorem takeApp_mapNext (hready : (f s).appReady = s.appReady)
    (hwait : (f s).setPortA (encodeApp i :: (f s).ports.portA) = f (s.setPortA (encodeApp i :: s.ports.portA)))
    (hrun : k (f s) = mapNext f (k s)) : takeApp i (f s) k = mapNext f (takeApp i s k) := by
  unfold takeApp
  rw [hready, hwait, hrun]
  split <;> rfl

theorem takeRb_mapNext {ready : Bool} {r : RbRequest}
    (hwait : (f s).setPortR (r :: (f s).ports.portR) = f (s.setPortR (r :: s.ports.portR)))
    (hrun : k (f s) = mapNext f (k s)) : takeRb ready r (f s) k = mapNext f (takeRb ready r s k) := by
  unfold takeRb
  rw [hwait, hrun]
  split <;> rfl

end

/-! ### The receive side, with any transmit side -/

/-- The transmit side: the log, the count of flushes and the flag. -/
structure TransmitSide where
  txlog : Bytes
  txFlushes : Nat
  writeError : Bool

/-- The state with the transmit side `x`. -/
def State.withTransmit (x : TransmitSide) (s : State) : State :=
  { s with writeError := x.writeError, env := { s.env with txlog := x.txlog, txFlushes := x.txFlushes } }

section
variable (x : TransmitSide) (s : State)

theorem empty_withTransmit : (s.withTransmit x).empty = s.empty := rfl

theorem full_withTransmit : (s.withTransmit x).full = s.full := rfl

theorem isEndpointDataAvailable_withTransmit (ep : Endpoint) :
    (s.withTransmit x).isEndpointDataAvailable ep = s.isEndpointDataAvailable ep := by cases ep <;> rfl

theorem memReadTail_withTransmit : (s.withTransmit x).memRead (s.withTransmit x).ring.tail = s.memRead s.ring.tail := rfl

theorem memWrite_withTransmit (a : Nat) (b : Byte) :
    (s.withTransmit x).memWrite a b = (s.memWrite a b).map (State.withTransmit x) := by
  have hC : (s.withTransmit x).params.C = s.params.C := rfl
  unfold State.memWrite
  rw [hC]
  split <;> rfl

theorem rbReadByte_withTransmit : rbReadByte (s.withTransmit x) = mapResult (State.withTransmit x) (rbReadByte s) := by
  unfold rbReadByte
  rw [empty_withTransmit, memReadTail_withTransmit]
  cases s.empty with
  | true => rfl
  | false => cases s.memRead s.ring.tail <;> rfl

theorem rbPeekByte_withTransmit : rbPeekByte (s.withTransmit x) = mapResult (State.withTransmit x) (rbPeekByte s) := by
  unfold rbPeekByte
  rw [empty_withTransmit, memReadTail_withTransmit]
  cases s.empty with
  | true => rfl
  | false => cases s.memRead s.ring.tail <;> rfl

theorem rbWriteByte_withTransmit (b : Byte) :
    rbWriteByte b (s.withTransmit x) = mapResult (State.withTransmit x) (rbWriteByte b s) := by
  have hhead : (s.withTransmit x).ring.head = s.ring.head := rfl
  unfold rbWriteByte
  rw [full_withTransmit, memWrite_withTransmit, hhead]
  cases s.full with
  | true => rfl
  | false => cases s.memWrite s.ring.head b <;> rfl

theorem readTrigger_withTransmit : readTrigger (s.withTransmit x) = (readTrigger s).withTransmit x := by
  unfold readTrigger
  rw [isEndpointDataAvailable_withTransmit]
  split <;> rfl

theorem receiveByte_rx_withTransmit :
    receiveByte .rx (s.withTransmit x) = mapResult (State.withTransmit x) (receiveByte .rx s) := by
  have hheld : (s.withTransmit x).held .rx = s.held .rx := rfl
  unfold receiveByte
  rw [hheld]
  cases s.held .rx <;> rfl

theorem pumpU2_withTransmit : pumpU2 (s.withTransmit x) = (pumpU2 s).withTransmit x := by
  unfold pumpU2
  rw [isEndpointDataAvailable_withTransmit]
  split <;> rfl

theorem pumpU3_withTransmit : pumpU3 (s.withTransmit x) = mapNext (State.withTransmit x) (pumpU3 s) := by
  unfold pumpU3
  rw [receiveByte_rx_withTransmit]
  exact withResult_mapResult (fun _ _ => rfl) _

theorem pumpU4_withTransmit : pumpU4 (s.withTransmit x) = mapNext (State.withTransmit x) (pumpU4 s) := by
  have hhead : (s.withTransmit x).ring.head = s.ring.head := rfl
  have hbyte : (s.withTransmit x).pump.byte = s.pump.byte := rfl
  unfold pumpU4
  rw [memWrite_withTransmit, hhead, hbyte]
  cases s.memWrite s.ring.head s.pump.byte <;> rfl

/-- The loop of a pass, turn by turn. -/
theorem pumpLoop_withTransmit (turns : Nat) :
    ∀ s : State, pumpLoop turns (s.withTransmit x) = mapNext (State.withTransmit x) (pumpLoop turns s) := by
  induction turns with
  | zero => exact fun _ => rfl
  | succ turns ih =>
    intro s
    have hu2 : pumpU2 (pumpU1 (s.withTransmit x)) = (pumpU2 (pumpU1 s)).withTransmit x := pumpU2_withTransmit x (pumpU1 s)
    unfold pumpLoop
    rw [full_withTransmit, isEndpointDataAvailable_withTransmit, hu2, pumpU3_withTransmit]
    split_ifs
    · rfl
    · refine andThen_mapNext (fun t => ?_) _
      rw [pumpU4_withTransmit]
      exact andThen_mapNext (fun u => ih (pumpU5 u)) _
    · rfl

theorem execPump_withTransmit : execPump (s.withTransmit x) = mapNext (State.withTransmit x) (execPump s) := by
  have hasked : ((s.withTransmit x).pumpReady && (s.withTransmit x).pump.req) = (s.pumpReady && s.pump.req) := rfl
  unfold execPump
  rw [hasked]
  split_ifs
  · exact pumpLoop_withTransmit x _ (pumpU0 s)
  · rfl

theorem execRead_withTransmit : execRead (s.withTransmit x) = mapNext (State.withTransmit x) (execRead s) := by
  refine takeApp_mapNext rfl rfl ?_
  rw [rbReadByte_withTransmit]
  refine withResult_mapResult (fun r t => ?_) _
  cases r with
  | none => rfl
  | some v => exact congrArg (fun u => Host.Outcome.next (u.appReturn (.optByte (some v)))) (readTrigger_withTransmit x t)

theorem execPeek_withTransmit : execPeek (s.withTransmit x) = mapNext (State.withTransmit x) (execPeek s) := by
  refine takeApp_mapNext rfl rfl ?_
  rw [rbPeekByte_withTransmit]
  exact withResult_mapResult (fun _ _ => rfl) _

theorem execRbRead_withTransmit : execRbRead (s.withTransmit x) = mapNext (State.withTransmit x) (execRbRead s) := by
  refine takeRb_mapNext rfl ?_
  rw [rbReadByte_withTransmit]
  exact withResult_mapResult (fun _ _ => rfl) _

theorem execRbPeek_withTransmit : execRbPeek (s.withTransmit x) = mapNext (State.withTransmit x) (execRbPeek s) := by
  refine takeRb_mapNext rfl ?_
  rw [rbPeekByte_withTransmit]
  exact withResult_mapResult (fun _ _ => rfl) _

theorem execRbWrite_withTransmit (b : Byte) :
    execRbWrite b (s.withTransmit x) = mapNext (State.withTransmit x) (execRbWrite b s) := by
  refine takeRb_mapNext rfl ?_
  rw [rbWriteByte_withTransmit]
  exact withResult_mapResult (fun _ _ => rfl) _

theorem execAvail_withTransmit : execAvail (s.withTransmit x) = mapNext (State.withTransmit x) (execAvail s) :=
  takeApp_mapNext rfl rfl (by rfl)

theorem execRbAvail_withTransmit : execRbAvail (s.withTransmit x) = mapNext (State.withTransmit x) (execRbAvail s) :=
  takeRb_mapNext rfl (by rfl)

/-- Every operation of the receive side. -/
theorem exec_withTransmit {b : Byte} (hi : i ∈ [Instr.read, .peek, .avail, .rbRead, .rbPeek, .rbAvail, .rbWrite b, .pump]) :
    exec i (s.withTransmit x) = mapNext (State.withTransmit x) (exec i s) := by
  simp only [List.mem_cons, List.not_mem_nil, or_false] at hi
  obtain rfl | rfl | rfl | rfl | rfl | rfl | rfl | rfl := hi
  · exact execRead_withTransmit x s
  · exact execPeek_withTransmit x s
  · exact execAvail_withTransmit x s
  · exact execRbRead_withTransmit x s
  · exact execRbPeek_withTransmit x s
  · exact execRbAvail_withTransmit x s
  · exact execRbWrite_withTransmit x s b
  · exact execPump_withTransmit x s

end

/-! ### The transmit side, with any receive side -/

/-- The receive side: the Ring Buffer, the bytes at the endpoint, its release and the latch of the pump. -/
structure ReceiveSide where
  ring : Ring
  rxq : Bytes
  rxReleased : Bool
  pumpReq : Bool

/-- The state with the receive side `x`. -/
def State.withReceive (x : ReceiveSide) (s : State) : State := { s with
  ring := x.ring
  pump := { s.pump with req := x.pumpReq }
  env := { s.env with rxq := x.rxq, rxReleased := x.rxReleased } }

section
variable (x : ReceiveSide) (s : State)

theorem sendBytes_withReceive (payload : Bytes) :
    sendBytes payload (s.withReceive x) = mapResult (State.withReceive x) (sendBytes payload s) := by
  have hdrive : (s.withReceive x).drive = s.drive := rfl
  simp only [sendBytes, drawSend, hdrive]
  cases s.drive.sendAnswers with
  | nil => rfl
  | cons a rest =>
    dsimp only
    split_ifs <;> rfl

theorem writeResult_withReceive (r : SendAnswer) : writeResult r (s.withReceive x) = (writeResult r s).withReceive x := by
  unfold writeResult
  split <;> rfl

theorem execWrite_withReceive (payload : Bytes) :
    execWrite payload (s.withReceive x) = mapNext (State.withReceive x) (execWrite payload s) := by
  refine takeApp_mapNext rfl rfl ?_
  rw [sendBytes_withReceive]
  refine withResult_mapResult (fun r t => ?_) _
  exact congrArg Host.Outcome.next (writeResult_withReceive x t r)

theorem execFlush_withReceive : execFlush (s.withReceive x) = mapNext (State.withReceive x) (execFlush s) :=
  takeApp_mapNext rfl rfl (by rfl)

theorem execGetWerr_withReceive : execGetWerr (s.withReceive x) = mapNext (State.withReceive x) (execGetWerr s) :=
  takeApp_mapNext rfl rfl (by rfl)

theorem execClrWerr_withReceive : execClrWerr (s.withReceive x) = mapNext (State.withReceive x) (execClrWerr s) :=
  takeApp_mapNext rfl rfl (by rfl)

/-- Every operation of the transmit side. -/
theorem exec_withReceive {bs : Bytes} (hi : i ∈ [Instr.write bs, .flush, .getWerr, .clrWerr]) :
    exec i (s.withReceive x) = mapNext (State.withReceive x) (exec i s) := by
  simp only [List.mem_cons, List.not_mem_nil, or_false] at hi
  obtain rfl | rfl | rfl | rfl := hi
  · exact execWrite_withReceive x s bs
  · exact execFlush_withReceive x s
  · exact execGetWerr_withReceive x s
  · exact execClrWerr_withReceive x s

end

/-- Settles O52: each side's operations commute with a change of the other side. -/
theorem receiveSideIgnoresTransmitSide : Obligations.ReceiveSideIgnoresTransmitSide := by
  constructor
  · intro s t log flushes werr other b i hi h
    exact (exec_withTransmit ⟨log, flushes, werr⟩ s hi).trans (congrArg (mapNext _) h)
  · intro s t ring held released req bs other i hi h
    exact (exec_withReceive ⟨ring, held, released, req⟩ s hi).trans (congrArg (mapNext _) h)

end Sys2Proof.Machine
end

section
/-!
Proofs of the statements of 43_serial_facade.md, second part: the commands run whole from an idle APP (R180 to R206), and the micro-steps of
READ and of the end of ISOPEN (R191, R200).
-/

namespace Sys2Proof.Machine

variable {s : State}

/-! ### Commands that answer at once (R180 to R182, R199 to R206) -/

section
variable (ha : s.app = .idle) (hc : s.ctl.phase ≠ .waitFifo)
include ha hc

theorem takeApp_of_idle (i : Instr) (k : State → Outcome) : takeApp i s k = k s := takeApp_ready (appReady_iff.mpr ⟨ha, hc⟩)

theorem exec_openPort_of_idle : exec .openPort s = .next (s.respondA .nothing) := by
  simp only [exec, execOpenPort, takeApp_of_idle ha hc, appReturn_of_idle ha]

theorem exec_openCfg_of_idle (baud : BitVec 32) (cfg : BitVec 16) : exec (.openCfg baud cfg) s = .next (s.respondA .nothing) := by
  simp only [exec, execOpenCfg, takeApp_of_idle ha hc, appReturn_of_idle ha]

theorem exec_closePort_of_idle : exec .closePort s = .next (s.respondA .nothing) := by
  simp only [exec, execClosePort, takeApp_of_idle ha hc, appReturn_of_idle ha]

theorem exec_flush_of_idle : exec .flush s = .next (s.flushEndpoint.respondA .nothing) := by
  simp only [exec, execFlush, takeApp_of_idle ha hc, appReturn_of_idle (s := s.flushEndpoint) ha]

theorem exec_getWerr_of_idle : exec .getWerr s = .next (s.respondA (.flag s.writeError)) := by
  simp only [exec, execGetWerr, takeApp_of_idle ha hc, appReturn_of_idle ha]

theorem exec_clrWerr_of_idle : exec .clrWerr s = .next (s.clearWriteError.respondA .nothing) := by
  simp only [exec, execClrWerr, takeApp_of_idle ha hc, appReturn_of_idle (s := s.clearWriteError) ha]

theorem exec_appReserved_of_idle (op : BitVec 4) : exec (.appReserved op) s = .next (s.respondA (.err true)) := by
  simp only [exec, execAppReserved, takeApp_of_idle ha hc, appReturn_of_idle ha]

end

/-- Settles O44: the three codes decode, and each command answers nothing and is done. -/
theorem openAndCloseAreNoOps : Obligations.OpenAndCloseAreNoOps := by
  refine ⟨fun _ _ _ _ _ => ⟨rfl, rfl, rfl⟩, fun s baud cfg ha hc i hi => ?_⟩
  simp only [List.mem_cons, List.not_mem_nil, or_false] at hi
  obtain rfl | rfl | rfl := hi
  · exact exec_openPort_of_idle ha hc
  · exact exec_openCfg_of_idle ha hc baud cfg
  · exact exec_closePort_of_idle ha hc

/-- Settles O47: the codes decode by the table and, from 0xB on, as reserved; each command writes its one field and answers. -/
theorem flushAndFlagCommands : Obligations.FlushAndFlagCommands := by
  refine ⟨fun _ _ _ _ _ => ⟨rfl, rfl, rfl, fun _ hop => decodeApp_of_reserved (decide_eq_true hop)⟩, fun s op ha hc => ?_⟩
  exact ⟨exec_flush_of_idle ha hc, exec_getWerr_of_idle ha hc, exec_clrWerr_of_idle ha hc, exec_appReserved_of_idle ha hc op⟩

/-! ### READ (R191) -/

/-- A3 of READ sets the latch or keeps it. -/
theorem readTrigger_eq (s : State) : readTrigger s = { s with pump := { s.pump with req := s.pump.req || !s.env.rxq.isEmpty } } := by
  unfold readTrigger State.isEndpointDataAvailable State.held
  cases s.env.rxq.isEmpty with
  | true => simp
  | false => simp [State.askPass]

section
variable (ha : s.app = .idle) (hc : s.ctl.phase ≠ .waitFifo)
include ha hc

theorem exec_read_of_empty (he : s.empty = true) : exec .read s = .next (s.respondA (.optByte none)) := by
  simp only [exec, execRead, takeApp_of_idle ha hc, rbReadByte_of_empty he, withResult_ok, appReturn_of_idle ha]

theorem exec_read_of_nonempty (hne : s.empty = false) (ht : s.ring.tail < s.params.C) :
    exec .read s = .next ((readTrigger s.dequeue).respondA (.optByte (some (s.cell s.ring.tail)))) := by
  have ha' : (readTrigger s.dequeue).app = .idle := by rwa [readTrigger_eq]
  simp only [exec, execRead, takeApp_of_idle ha hc, rbReadByte_of_nonempty hne ht, withResult_ok, appReturn_of_idle ha']

end

/-- Settles O45: the emptiness of the buffer decides which of the two outcomes of READ it is. -/
theorem readConsumesAndTriggers : Obligations.ReadConsumesAndTriggers := by
  refine fun s ha hc => ⟨fun he => exec_read_of_empty ha hc (empty_iff.mpr he), fun hne ht => ?_⟩
  rw [exec_read_of_nonempty ha hc (empty_eq_false_iff.mpr hne) ht, readTrigger_eq]
  rfl

/-! ### WRITE (R197, R69) -/

theorem drawSend_of_listed {n : Nat} {r : SendAnswer} {answers : List SendAnswer} (hs : s.drive.sendAnswers = r :: answers)
    (hle : sendAccepted r ≤ n) : drawSend n s = .ok (r, { s with drive := { s.drive with sendAnswers := answers } }) := by
  simp only [drawSend, hs, if_pos hle]

theorem drawSend_of_excess {n : Nat} {r : SendAnswer} {answers : List SendAnswer} (hs : s.drive.sendAnswers = r :: answers)
    (hlt : n < sendAccepted r) : drawSend n s = .error .sentMoreThanOffered := by
  simp only [drawSend, hs, if_neg (Nat.not_le.mpr hlt)]

theorem drawSend_of_none {n : Nat} (hs : s.drive.sendAnswers = []) :
    drawSend n s = .ok (boundAnswer n (Config.freeSend s.drive.draws), s.countDraw) := by
  simp only [drawSend, hs]

/-- A send fails exactly when it accepts no byte. -/
theorem sendFailed_eq_decide (r : SendAnswer) : sendFailed r = decide (sendAccepted r = 0) := by
  cases r with
  | fail => rfl
  | count r => simp [sendFailed, sendAccepted]

/-- A2 of WRITE: a failure sets the flag and answers the zero bytes that it accepted. -/
theorem writeResult_of_idle (ha : s.app = .idle) (r : SendAnswer) : writeResult r s =
    State.respondA { s with writeError := s.writeError || decide (sendAccepted r = 0) } (.sent (sendAccepted r)) := by
  unfold writeResult
  rw [sendFailed_eq_decide, appReturn_of_idle ha, appReturn_of_idle (s := s.markWriteError) ha]
  by_cases hr : sendAccepted r = 0 <;> simp [hr, State.markWriteError]

section
variable (ha : s.app = .idle) (hc : s.ctl.phase ≠ .waitFifo)
include ha hc

/-- WRITE on the answer `r`, whose draw leaves `d` of the model's inputs. -/
theorem exec_write_of_drawSend {bs : Bytes} {r : SendAnswer} {d : Drive}
    (h : drawSend bs.length s = .ok (r, { s with drive := d })) : exec (.write bs) s = .next { s with
      writeError := s.writeError || decide (sendAccepted r = 0)
      env := { s.env with txlog := s.env.txlog ++ bs.take (sendAccepted r) }
      ports := { s.ports with respA := s.ports.respA ++ [.sent (sendAccepted r)] }
      drive := d } := by
  simp only [exec, execWrite, takeApp_of_idle ha hc, sendBytes, h, withResult_ok]
  exact congrArg Host.Outcome.next (writeResult_of_idle (by exact ha) r)

theorem exec_write_of_excess {bs : Bytes} (h : drawSend bs.length s = .error .sentMoreThanOffered) :
    exec (.write bs) s = .fault .sentMoreThanOffered := by
  simp only [exec, execWrite, takeApp_of_idle ha hc, sendBytes, h, withResult_error]

end

/-- Settles O46: the draw decides, listed within the length, listed above it, or free, which is within the length. -/
theorem writeReturnsTheAcceptedCount : Obligations.WriteReturnsTheAcceptedCount := by
  refine ⟨fun p x c bs hfit => if_pos ⟨rfl, hfit⟩, fun s bs ha hc => ⟨?fail, ?count, ?excess, ?free⟩⟩
  case fail => exact fun answers hs => exec_write_of_drawSend ha hc (drawSend_of_listed hs (Nat.zero_le _))
  case count => exact fun r answers hs hle => exec_write_of_drawSend ha hc (drawSend_of_listed hs hle)
  case excess => exact fun r answers hs hlt => exec_write_of_excess ha hc (drawSend_of_excess hs hlt)
  case free => exact fun hs => ⟨_, boundAnswer_accepted_le _ _, exec_write_of_drawSend ha hc (drawSend_of_none hs)⟩

/-! ### ISOPEN (R200) -/

theorem drawEarly_of_listed {early : Bool} {draws : List Bool} (hs : s.drive.earlyDraws = early :: draws) :
    drawEarly s = (early, { s with drive := { s.drive with earlyDraws := draws } }) := by
  simp only [drawEarly, hs]

theorem drawEarly_of_none (hs : s.drive.earlyDraws = []) : drawEarly s = (Config.freeEarly s.drive.draws, s.countDraw) := by
  simp only [drawEarly, hs]

section
variable (ha : s.app = .idle) (hc : s.ctl.phase ≠ .waitFifo)
include ha hc

theorem exec_isOpen_of_holdoff (hhold : s.env.nowMs < s.params.bootHoldoffMs) :
    exec .isOpen s = .next (s.respondA (.flag false)) := by
  simp only [exec, execIsOpen, takeApp_of_idle ha hc, State.millis, if_pos hhold, appReturn_of_idle ha]

/-- ISOPEN after the hold-off, on the draw `early`, which leaves `d` of the model's inputs. -/
theorem exec_isOpen_of_drawEarly {early : Bool} {d : Drive} (hlate : s.params.bootHoldoffMs ≤ s.env.nowMs)
    (h : drawEarly s = (early, { s with drive := d })) : exec .isOpen s = .next { s with
      app := .isOpenA4 s.env.nowMs (if early then some s.line.lineState else none)
      drive := d } := by
  simp only [exec, execIsOpen, takeApp_of_idle ha hc, State.millis, if_neg (Nat.not_lt.mpr hlate), sampleEarly, h]
  rfl

end

/-! ### APP's micro-step at a label -/

theorem setApp_self {ph : AppPhase} (ha : s.app = ph) : s.setApp ph = s := by
  unfold State.setApp
  rw [← ha]

theorem appMicro_of_label {ph : AppPhase} {o : Outcome} (ha : s.app = ph) (hc : s.ctl.phase ≠ .waitFifo) (hph : ph ≠ .idle)
    (h : appNext (s.setApp ph) = o) : appMicro s = o := by
  rw [← setApp_self ha]
  exact appMicro_setApp hc hph h

theorem appMicro_of_no_command (ha : s.app = .idle) (hc : s.ctl.phase ≠ .waitFifo) (hport : s.ports.portA = []) :
    appMicro s = .next s := by
  simp only [appMicro, stall_eq_false hc, Bool.false_eq_true, if_false, if_pos ha, takeRequest, hport]

/-- Settles O48: the hold-off decides, and after it the draw, listed or free; then the delay decides A4. -/
theorem isOpenHoldsOffThenDelays : Obligations.IsOpenHoldsOffThenDelays := by
  refine fun s hc => ⟨?holdoff, ?listed, ?free, ?elapsed, ?running⟩
  case holdoff => exact fun ha hhold => exec_isOpen_of_holdoff ha hc hhold
  case listed => exact fun early draws ha hlate hs => exec_isOpen_of_drawEarly ha hc hlate (drawEarly_of_listed hs)
  case free => exact fun ha hlate hs => ⟨_, exec_isOpen_of_drawEarly ha hc hlate (drawEarly_of_none hs)⟩
  case elapsed =>
    intro t0 sample ha hover
    exact appMicro_of_label ha hc nofun (congrArg Host.Outcome.next (if_pos (decide_eq_true hover)))
  case running =>
    intro t0 sample ha hrun
    have hnot : ¬s.delayOver t0 s.params.settleMs = true := by simpa [State.delayOver] using hrun
    exact appMicro_of_label ha hc nofun (congrArg Host.Outcome.next ((if_neg hnot).trans (setApp_self ha)))

/-- Settles O49: the label decides the micro-step, D1 and D2 by the buffer and A3 by the endpoint. -/
theorem readMicroSteps : Obligations.ReadMicroSteps := by
  refine fun s hc => ⟨?takes, ?none, ?d1, ?d2, ?d3, ?a2none, ?a2, ?a3, ?a4⟩
  case takes => exact fun r ws i ha hport hi => appMicro_takes ha hc hport hi
  case none => exact fun ha hport => appMicro_of_no_command ha hc hport
  case d1 =>
    intro ha
    refine appMicro_of_label ha hc nofun ?_
    simp only [← empty_iff]
    rfl
  case d2 =>
    intro ha ht
    exact appMicro_of_label ha hc nofun (withTailByte_of_tail_lt (s := s.setApp .readD2) ht)
  case d3 => exact fun v ha => appMicro_of_label ha hc nofun rfl
  case a2none => exact fun ha => appMicro_of_label ha hc nofun rfl
  case a2 => exact fun v ha => appMicro_of_label ha hc nofun rfl
  case a3 =>
    intro v ha
    refine appMicro_of_label ha hc nofun ?_
    simp only [appNext, State.setApp_app, readTrigger_eq]
    rfl
  case a4 => exact fun v ha => appMicro_of_label ha hc nofun rfl

end Sys2Proof.Machine
end

section
/-!
Proofs of the statements of 60_exceptions.md: what the block refuses or passes over (R212, R95, U5, U15, U17), and the agents that a stall
holds (R216).
-/

namespace Sys2Proof.Machine

variable {s : State}

/-! ### Ill-formed inputs -/

/-- Outside the constraints of R7 no pick is taken (U15). -/
theorem step_of_not_ok (h : s.params.ok = false) : step s = .refused .badConfiguration := by simp [step, stepOnce, h]

theorem lengthFits_eq_false {p : Params} {n : Nat} (h : 2 ^ p.lenW ≤ n) : p.lengthFits n = false := by
  cases n with
  | zero => exact absurd h (Nat.not_le.mpr Nat.one_le_two_pow)
  | succ n => exact decide_eq_false (Nat.not_lt.mpr h)

theorem decodeApp_of_malformed {p : Params} {r : AppRequest} (hop : r.aOp = 0x6#4)
    (hbad : r.aPayload.length ≠ r.aLen ∨ 2 ^ p.lenW ≤ r.aLen) : decodeApp p r = .error .malformedWrite := by
  obtain ⟨op, baud, cfg, len, payload⟩ := r
  obtain rfl : op = 0x6#4 := hop
  refine (decodeApp_write p baud cfg len payload).trans (if_neg fun ⟨hlen, hfits⟩ => ?_)
  obtain hne | hlarge := hbad
  · exact hne hlen
  · exact absurd hfits (Bool.eq_false_iff.mp (lengthFits_eq_false hlarge))

theorem takeRequest_of_reject {k : Instr → State → Outcome} {r : AppRequest} {ws : List AppRequest} {e : Reject}
    (hport : s.ports.portA = r :: ws) (he : decodeApp s.params r = .error e) : takeRequest s k = .refused .malformedRequest := by
  simp only [takeRequest, hport, he]

/-- A command that does not decode is refused at either grain, where an idle APP would take it (U17). -/
theorem runPick_app_of_reject {pick : Pick} {r : AppRequest} {ws : List AppRequest} {e : Reject}
    (hpick : pick = .appOp ∨ pick = .appMicro) (ha : s.app = .idle) (hc : s.ctl.phase ≠ .waitFifo)
    (hport : s.ports.portA = r :: ws) (he : decodeApp s.params r = .error e) :
    runPick pick s = .refused .malformedRequest := by
  obtain rfl | rfl := hpick
  · exact (if_pos (appReady_iff.mpr ⟨ha, hc⟩)).trans (takeRequest_of_reject hport he)
  · exact (if_neg (mt stall_iff.mp hc)).trans ((if_pos ha).trans (takeRequest_of_reject hport he))

theorem decodeUsb_of_reserved {e : UsbEvent} (he : e.uEv = 0b00#2 ∨ e.uEv = 0b11#2) : ∃ why, decodeUsb e = .error why := by
  obtain ⟨ev, packet⟩ := e
  obtain rfl | rfl := he
  · exact ⟨.noEvent, rfl⟩
  · exact ⟨.reservedEvent, rfl⟩

/-- An event that does not decode is passed over, behind every SETUP that waits before it (R95, R213). -/
theorem runUsbOp_of_reject {waits ws : List UsbEvent} {e : UsbEvent} {why : Reject} (hport : s.ports.portU = waits ++ e :: ws)
    (hwaits : ∀ x ∈ waits, usbTakeable x s = false) (he : usbTakeable e s = true) (hwhy : decodeUsb e = .error why) :
    runUsbOp s = .next (s.setPortU (waits ++ ws)) := by
  have hfirst := firstTakeable_append (ok := fun x => usbTakeable x s) (post := ws) hwaits he
  simp only [runUsbOp, hport, hfirst, hwhy]

/-- Settles O15: the parameters are tested before the pick, and a word that does not decode is refused on port A and passed over on
port U. -/
theorem illFormedInputs : Obligations.IllFormedInputs := by
  refine ⟨fun s hbad => step_of_not_ok hbad, ?malformed, ?reserved⟩
  case malformed =>
    intro s rest pick r ws hok hpick hp ha hc hport hop hbad
    exact (step_listed hok hp).trans (runPick_app_of_reject hpick ha hc hport (decodeApp_of_malformed hop hbad))
  case reserved =>
    intro s rest waits e ws hok hp hport hwaits he
    obtain ⟨why, hwhy⟩ := decodeUsb_of_reserved he
    have hnoSetup : e.uEv ≠ 0b10#2 := by obtain h | h := he <;> simp [h]
    exact (step_listed hok hp).trans (runUsbOp_of_reject hport
      (fun x hx => usbTakeable_eq_false (hwaits x hx).1 (hwaits x hx).2) (usbTakeable_eq_true (absurd · hnoSetup)) hwhy)

/-! ### The stall holds every agent (R216) -/

theorem runUsbOp_of_none_takeable (h : ∀ e ∈ s.ports.portU, usbTakeable e s = false) : runUsbOp s = .next s := by
  simp only [runUsbOp, firstTakeable_eq_none h]

section
variable (hc : s.ctl.phase = .waitFifo)
include hc

theorem runAppOp_of_stall : runAppOp s = .next s := if_neg (Bool.eq_false_iff.mp (appReady_eq_false (.inr hc)))

theorem appMicro_of_stall : appMicro s = .next s := if_pos (stall_iff.mpr hc)

theorem runPumpOp_of_stall : runPumpOp s = .next s := if_neg (Bool.eq_false_iff.mp (pumpReady_eq_false (.inr hc)))

/-- A primitive of either agent stays on port R. -/
theorem runRbOp_of_stall : runRbOp s = .next s := by
  have hready : ∀ r, rbReady r s = false := fun r => by
    simp [rbReady, appReady_eq_false (.inr hc), pumpReady_eq_false (.inr hc)]
  cases hport : s.ports.portR with
  | nil => simp only [runRbOp, hport]
  | cons r ws => simp only [runRbOp, hport, hready, Bool.false_eq_true, if_false]

/-- SETUPs alone on port U wait there: CTRL is not idle (R150). -/
theorem runUsbOp_of_stall (hsetups : ∀ e ∈ s.ports.portU, e.uEv = 0b10#2) : runUsbOp s = .next s :=
  runUsbOp_of_none_takeable fun e he => usbTakeable_eq_false (hsetups e he) (by simp [hc])

theorem ctlMicro_of_short_stall (hshort : s.env.ep0q.length < s.params.slcThreshold) : ctlMicro s = .next s := by
  rw [ctlMicro_waitFifo hc, ctlS2_of_short hshort]

theorem runCtrlOp_of_short_stall (hshort : s.env.ep0q.length < s.params.slcThreshold) : runCtrlOp s = .next s :=
  (runPick_ctrlOp_of_stall hc).trans (slcResume_of_short hshort)

end

/-- Settles O17: each pick meets the stall in the test of its agent, CTRL's own in the length of the data stage. -/
theorem stallHoldsEveryAgent : Obligations.StallHoldsEveryAgent := by
  intro s p rest hok hc hp hheld
  rw [step_listed hok hp]
  obtain hagent | ⟨rfl, hsetups⟩ | ⟨hctrl, hshort⟩ := hheld
  · cases p with
    | appOp => exact runAppOp_of_stall hc
    | appMicro => exact appMicro_of_stall hc
    | pumpOp => exact runPumpOp_of_stall hc
    | pumpMicro => exact pumpMicro_of_stall hc
    | rbOp => exact runRbOp_of_stall hc
    | _ => simp at hagent
  · exact runUsbOp_of_stall hc hsetups
  · cases p with
    | ctrlOp => exact runCtrlOp_of_short_stall hc hshort
    | ctrlMicro => exact ctlMicro_of_short_stall hc hshort
    | _ => simp at hctrl

end Sys2Proof.Machine
end

section
/-!
Proofs of the statements of 70_reset_and_hazards.md, first part: the two resets (R240, R241, R70), and what a state in which nothing is
enabled stands for (R245).
-/

namespace Sys2Proof.Machine

variable {s : State}

/-! ### Reset (R240, R241) -/

theorem fireEnabled_iff : s.fireEnabled = true ↔ s.env.rstPending = true ∧ s.env.rstDeadline ≤ s.env.nowMs := by
  simp only [State.fireEnabled, Bool.and_eq_true, decide_eq_true_eq]

theorem fire_of_due (hpending : s.env.rstPending = true) (hdue : s.env.rstDeadline ≤ s.env.nowMs) : fire s = s.resetBlock :=
  if_pos (fireEnabled_iff.mpr ⟨hpending, hdue⟩)

theorem fire_of_not_due (h : s.env.rstPending = false ∨ s.env.nowMs < s.env.rstDeadline) : fire s = s := by
  refine if_neg fun henabled => ?_
  obtain ⟨hpending, hdue⟩ := fireEnabled_iff.mp henabled
  obtain hnone | hearly := h
  · exact absurd hpending (Bool.eq_false_iff.mp hnone)
  · exact absurd hdue (Nat.not_le.mpr hearly)

/-- Settles O13: `rst` is the reset, and Fire is it exactly when a reset is pending and due. -/
theorem resetFromAnyState : Obligations.ResetFromAnyState := by
  intro s rest hok wiped
  refine ⟨?rst, ?due, ?notDue⟩
  case rst => exact fun hp => step_listed hok hp
  case due => exact fun hp hpending hdue => (step_listed hok hp).trans (congrArg Host.Outcome.next (fire_of_due hpending hdue))
  case notDue => exact fun hp hnotDue => (step_listed hok hp).trans (congrArg Host.Outcome.next (fire_of_not_due hnotDue))

/-! ### Where an agent has no enabled micro-step (R245) -/

theorem ctlEnabled_eq_false (h : s.ctlEnabled = false) : s.ctl.phase = .idle ∨ s.ctl.phase = .waitFifo := by
  unfold State.ctlEnabled at h
  split at h
  case h_1 hc => exact .inl hc
  case h_2 hc => exact .inr hc
  case h_3 => cases h

theorem pumpEnabled_eq_false (hs : s.stall = false) (h : s.pumpEnabled = false) : s.pump.phase = .idle ∧ s.pump.req = false := by
  simpa [State.pumpEnabled, hs] using h

/-- APP has no micro-step without a stall only where it is idle, or in an ISOPEN's delay (R70): a command in hand always has one. -/
theorem appEnabled_eq_false (hinv : AppInv s) (hs : s.stall = false) (h : s.appEnabled = false) :
    s.app = .idle ∨ ∃ t0 sample, s.app = .isOpenA4 t0 sample ∧ s.env.nowMs < t0 + s.params.settleMs := by
  unfold AppInv at hinv
  unfold State.appEnabled at h
  cases ha : s.app with
  | idle => exact .inl rfl
  | taken i =>
    have hcommand : isCommand i = true := by simpa only [ha] using hinv
    simp only [ha, hs, isCommand] at h hcommand
    simp [hcommand] at h
  | isOpenA4 t0 sample =>
    refine .inr ⟨t0, sample, rfl, ?_⟩
    simpa [ha, hs, State.delayOver] using h
  | peekK2 | readD2 | readD3 | readA2 | readA3 | readA4 | writeA2 | isOpenA2 | isOpenA3 => simp [ha, hs] at h

theorem quiescent_iff : s.quiescent = true ↔
    s.pump.phase = .idle ∧ s.ctl.phase = .idle ∧ s.app = .idle ∧ s.pump.req = false := by
  simp only [State.quiescent, Bool.and_eq_true, beq_iff_eq, Bool.not_eq_true', and_assoc]

/-- Nothing enabled and nothing stalled: each agent is idle, or APP waits for a delay. -/
theorem quiescent_or_delay (hinv : AppInv s) (hnone : nextEnabled s = none) (hs : s.stall = false) :
    s.quiescent = true ∨ ∃ t0 sample, s.app = .isOpenA4 t0 sample ∧ s.env.nowMs < t0 + s.params.settleMs := by
  have hdisabled := nextEnabled_eq_none.mp hnone
  obtain ⟨hphase, hreq⟩ := pumpEnabled_eq_false hs (hdisabled .pumpMicro)
  obtain happ | hdelay := appEnabled_eq_false hinv hs (hdisabled .appMicro)
  · obtain hctl | hwait := ctlEnabled_eq_false (hdisabled .ctrlMicro)
    · exact .inl (quiescent_iff.mpr ⟨hphase, hctl, happ, hreq⟩)
    · exact absurd (stall_iff.mpr hwait) (Bool.eq_false_iff.mp hs)
  · exact .inr hdelay

/-- In a quiescent state neither CTRL nor PUMP has a micro-step: what is left is the taking of a word. -/
theorem nextEnabled_of_quiescent (h : s.quiescent = true) : nextEnabled s ∈ [none, some Pick.usbOp, some .appMicro, some .rbOp] := by
  obtain ⟨hphase, hctl, -, hreq⟩ := quiescent_iff.mp h
  have hnoCtl : s.ctlEnabled = false := by simp only [State.ctlEnabled, hctl]
  have hnoPump : s.pumpEnabled = false := by simp [State.pumpEnabled, hphase, hreq]
  simp only [nextEnabled, hnoCtl, hnoPump, Bool.false_eq_true, if_false]
  split_ifs <;> simp

/-- Settles O59: what each agent's lack of a step says, and the five picks that the next step is among. -/
theorem nothingEnabledIsQuiescent : Obligations.NothingEnabledIsQuiescent := fun _ hinv =>
  ⟨quiescent_or_delay hinv.app, nextEnabled_of_quiescent, fun _ => nextEnabled_is_an_agents⟩

end Sys2Proof.Machine
end

section
/-!
Proofs of the statements of 70_reset_and_hazards.md, second part: what each agent's steps leave unchanged. The receive path (the phase of
the pass, and the receive endpoint) is written by PUMP, by a packet's arrival and by a reset alone.
-/

namespace Sys2Proof.Machine

variable {s t : State}

/-! ### What the shared operations write -/

theorem sampleEarly_writes (s : State) : ∃ d, (sampleEarly s).2 = { s with drive := d } := by
  unfold sampleEarly drawEarly
  split <;> exact ⟨_, rfl⟩

theorem sendBytes_writes {payload : Bytes} {r : SendAnswer} (h : sendBytes payload s = .ok (r, t)) :
    ∃ d log, t = { s with env := { s.env with txlog := log }, drive := d } := by
  obtain ⟨u, hu, rfl⟩ := sendBytes_eq_ok h
  obtain ⟨-, ⟨-, -, rfl⟩ | ⟨rest, -, rfl⟩⟩ := drawSend_eq_ok hu <;> exact ⟨_, _, rfl⟩

theorem writeResult_returns (r : SendAnswer) (s : State) :
    ∃ w a, writeResult r s = State.appReturn { s with writeError := w } a := by
  unfold writeResult
  split <;> exact ⟨_, _, rfl⟩

theorem isOpenA1_cases (s : State) : isOpenA1 s = s.appReturn (.flag false) ∨ isOpenA1 s = s.setApp .isOpenA2 := by
  unfold isOpenA1
  split <;> simp

theorem isOpenA4_of_delayOver {t0 : Nat} (h : s.delayOver t0 s.params.settleMs = true) (sample : Option Byte) :
    isOpenA4 t0 sample s = s.appReturn (.flag (isOpenState (sample.getD s.line.lineState))) := if_pos h

/-! ### The frames -/

/-- The phase of the pass, and the receive endpoint: its bytes, and whether it is released. -/
def State.receivePath (s : State) : PumpPhase × Bytes × Bool := (s.pump.phase, s.env.rxq, s.env.rxReleased)

/-- What CTRL's micro-steps leave of the receive path, of APP and PUMP, and of the words on the ports. -/
def State.besideCtrl (s : State) := (s.receivePath, s.pump.req, s.app, s.ports.portA, s.ports.portU, s.ports.portR)

/-- What the micro-steps of a command leave of the receive path, of CTRL, and of the words on the ports. -/
def State.besideApp (s : State) := (s.receivePath, s.ctl, s.ports.portA, s.ports.portU, s.ports.portR)

/-- What the Ring Buffer primitives leave: all but the buffer and their own responses. -/
def State.besideRing (s : State) := (s.ctl, s.app, s.pump, s.env, s.ports.portA, s.ports.portU, s.ports.portR)

theorem receivePath_of_besideCtrl (h : t.besideCtrl = s.besideCtrl) : t.receivePath = s.receivePath := congrArg Prod.fst h

theorem receivePath_of_besideApp (h : t.besideApp = s.besideApp) : t.receivePath = s.receivePath := congrArg Prod.fst h

theorem receivePath_of_besideRing (h : t.besideRing = s.besideRing) : t.receivePath = s.receivePath := by
  obtain ⟨-, -, hpump, henv, -⟩ : t.ctl = s.ctl ∧ t.app = s.app ∧ t.pump = s.pump ∧ t.env = s.env ∧ _ := by
    simpa only [State.besideRing, Prod.mk.injEq] using h
  simp only [State.receivePath, hpump, henv]

/-! ### CTRL (R150 to R168) -/

theorem applyHeuristic_besideCtrl (s : State) : (applyHeuristic s).besideCtrl = s.besideCtrl := by
  unfold applyHeuristic
  split_ifs <;> rfl

theorem ctlMicro_besideCtrl (s : State) : Ensures (ctlMicro s) fun t => t.besideCtrl = s.besideCtrl := by
  cases hc : s.ctl.phase with
  | idle => exact ctlMicro_of_idle hc ▸ .next rfl
  | waitFifo =>
    rw [ctlMicro_waitFifo hc, ctlS2]
    split <;> exact .next rfl
  | dispatch l =>
    rw [ctlMicro_of_dispatch hc]
    cases l with
    | s3 =>
      intro t ht
      obtain ⟨d, q, -, rfl⟩ := ctlS3_eq_next ht
      rfl
    | l2 => exact .next (applyHeuristic_besideCtrl s)
    | t2 | g1 | g2 | s1 | s4 | s5 | l1 | l3 | n1 => exact .next rfl

theorem slcResume_receivePath (s : State) : Ensures (slcResume s) fun t => t.receivePath = s.receivePath :=
  (slcResume_cases s).mono (by rintro t (rfl | ⟨-, d, q, rfl⟩) <;> rfl)

theorem execSetup_receivePath (packet : SetupPacket) (s : State) :
    Ensures (execSetup packet s) fun t => t.receivePath = s.receivePath := by
  unfold execSetup
  split <;> exact .next rfl

/-! ### APP (R180 to R206) -/

theorem readTrigger_besideApp (s : State) : (readTrigger s).besideApp = s.besideApp := by rw [readTrigger_eq]; rfl

theorem sampleEarly_besideApp (s : State) : (sampleEarly s).2.besideApp = s.besideApp := by
  obtain ⟨d, hd⟩ := sampleEarly_writes s
  rw [hd]
  rfl

theorem sendBytes_besideApp {payload : Bytes} {r : SendAnswer} (h : sendBytes payload s = .ok (r, t)) : t.besideApp = s.besideApp := by
  obtain ⟨d, log, rfl⟩ := sendBytes_writes h
  rfl

theorem writeResult_besideApp (r : SendAnswer) (s : State) : (writeResult r s).besideApp = s.besideApp := by
  obtain ⟨w, a, hw⟩ := writeResult_returns r s
  rw [hw]
  rfl

theorem appA1_besideApp (i : Instr) (s : State) : Ensures (appA1 i s) fun t => t.besideApp = s.besideApp := by
  cases i with
  | isOpen => exact .next (by obtain h | h := isOpenA1_cases s <;> rw [h] <;> rfl)
  | write => exact .withResult fun r u hu => .next (sendBytes_besideApp hu :)
  | peek => exact .next (by split <;> rfl)
  | _ => exact .next rfl

theorem appNext_besideApp (s : State) : Ensures (appNext s) fun t => t.besideApp = s.besideApp := by
  unfold appNext
  cases s.app with
  | taken i => exact appA1_besideApp i s
  | peekK2 | readD2 => exact .withTailByte rfl
  | readA2 r => cases r <;> exact .next rfl
  | readA3 v => exact .next (readTrigger_besideApp s)
  | writeA2 r => exact .next (writeResult_besideApp r s)
  | isOpenA2 => exact .next (sampleEarly_besideApp s)
  | isOpenA4 t0 sample =>
    refine .next ?_
    unfold isOpenA4
    split <;> rfl
  | idle | readD3 | readA4 | isOpenA3 => exact .next rfl

/-! ### The Ring Buffer primitives (R110 to R122) -/

theorem rbReadByte_besideRing {r : Option Byte} (h : rbReadByte s = .ok (r, t)) : t.besideRing = s.besideRing := by
  obtain ⟨-, -, rfl⟩ | ⟨-, -, -, rfl⟩ := rbReadByte_eq_ok h <;> rfl

theorem rbPeekByte_besideRing {r : Option Byte} (h : rbPeekByte s = .ok (r, t)) : t.besideRing = s.besideRing := by
  obtain ⟨rfl, -⟩ := rbPeekByte_eq_ok h
  rfl

theorem rbWriteByte_besideRing {b : Byte} {ok : Bool} (h : rbWriteByte b s = .ok (ok, t)) : t.besideRing = s.besideRing := by
  obtain ⟨-, -, rfl⟩ | ⟨-, -, -, rfl⟩ := rbWriteByte_eq_ok h <;> rfl

theorem Ensures.takeRb_of_ready {ready : Bool} {r : RbRequest} {k : State → Outcome} {Q : State → Prop} (h : ready = true)
    (hrun : Ensures (k s) Q) : Ensures (Machine.takeRb ready r s k) Q := by rwa [takeRb_ready h]

/-- A primitive of port R whose agent is ready is run, and leaves all but the buffer and its response. -/
theorem exec_decodeRb_besideRing {r : RbRequest} (hready : rbReady r s = true) :
    Ensures (exec (decodeRb r) s) fun t => t.besideRing = s.besideRing := by
  obtain ⟨op, data⟩ := r
  obtain rfl | rfl | rfl | rfl := twoBit_cases op
  · show Ensures (execRbAvail s) _
    exact .takeRb_of_ready hready (.next rfl)
  · show Ensures (execRbWrite data s) _
    exact .takeRb_of_ready hready (.withResult fun ok u hu => .next (rbWriteByte_besideRing hu :))
  · show Ensures (execRbRead s) _
    exact .takeRb_of_ready hready (.withResult fun v u hu => .next (rbReadByte_besideRing hu :))
  · show Ensures (execRbPeek s) _
    exact .takeRb_of_ready hready (.withResult fun v u hu => .next (rbPeekByte_besideRing hu :))

end Sys2Proof.Machine
end

section
/-!
Proofs of the statements of 70_reset_and_hazards.md, third part: an endpoint left empty and unreleased stays dead (R255).
-/

namespace Sys2Proof.Machine

variable {s t : State}

/-! ### Whole operations and the receive path -/

theorem execRead_receivePath (s : State) : Ensures (execRead s) fun t => t.receivePath = s.receivePath :=
  .takeApp rfl fun _ => .withResult fun r u hu => by
    have hread : u.receivePath = s.receivePath := receivePath_of_besideRing (rbReadByte_besideRing hu)
    cases r with
    | none => exact .next hread
    | some v => exact .next ((receivePath_of_besideApp (readTrigger_besideApp u)).trans hread)

theorem execIsOpen_receivePath (s : State) : Ensures (execIsOpen s) fun t => t.receivePath = s.receivePath := by
  refine .takeApp rfl fun _ => .next ?_
  split
  · rfl
  · exact receivePath_of_besideApp (sampleEarly_besideApp s)

/-- Of the operations the pass alone writes the receive path: an RX_READY without its packet and READ only ask for one (R132). -/
theorem exec_keeps_receivePath {i : Instr} (hpass : i ≠ .pump) (s : State) :
    Ensures (exec i s) fun t => t.receivePath = s.receivePath := by
  unfold exec
  cases i with
  | pump => contradiction
  | rxReady => exact .next rfl
  | rbAvail => exact .takeRb rfl fun _ => .next rfl
  | rbWrite => exact .takeRb rfl fun _ => .withResult fun ok u hu => .next (receivePath_of_besideRing (rbWriteByte_besideRing hu) :)
  | rbRead => exact .takeRb rfl fun _ => .withResult fun r u hu => .next (receivePath_of_besideRing (rbReadByte_besideRing hu) :)
  | rbPeek => exact .takeRb rfl fun _ => .withResult fun r u hu => .next (receivePath_of_besideRing (rbPeekByte_besideRing hu) :)
  | setup packet => exact execSetup_receivePath packet s
  | getLineCoding | ctrlUnhandled => exact .takeCtl rfl fun _ => .next rfl
  | setLineCoding => exact .takeCtl rfl fun _ => slcResume_receivePath (ctlS1 s)
  | setControlLineState v =>
    exact .takeCtl rfl fun _ => .next (receivePath_of_besideCtrl (applyHeuristic_besideCtrl (ctlL1 (lowByte v) s)))
  | openPort | openCfg | closePort | avail | flush | getWerr | clrWerr | appReserved => exact .takeApp rfl fun _ => .next rfl
  | peek => exact .takeApp rfl fun _ => .withResult fun r u hu => .next (receivePath_of_besideRing (rbPeekByte_besideRing hu) :)
  | read => exact execRead_receivePath s
  | write =>
    refine .takeApp rfl fun _ => .withResult fun r u hu => .next (receivePath_of_besideApp ?_)
    exact (writeResult_besideApp r u).trans (sendBytes_besideApp hu)
  | isOpen => exact execIsOpen_receivePath s

theorem exec_keeps_receivePath_of_format {i : Instr} (hf : i.format ≠ .trig) (s : State) :
    Ensures (exec i s) fun t => t.receivePath = s.receivePath := by
  refine exec_keeps_receivePath ?_ s
  rintro rfl
  exact hf rfl

/-! ### Picks -/

theorem runAppOp_receivePath (s : State) : Ensures (runAppOp s) fun t => t.receivePath = s.receivePath := by
  unfold runAppOp
  split
  · exact .takeRequest rfl fun r ws i _ hi => exec_keeps_receivePath_of_format (by simp [decodeApp_format hi]) (s.setPortA ws)
  · exact .next rfl

theorem appMicro_receivePath (s : State) : Ensures (appMicro s) fun t => t.receivePath = s.receivePath := by
  unfold appMicro
  split_ifs
  · exact .next rfl
  · exact .takeRequest rfl fun _ _ _ _ _ => .next rfl
  · exact (appNext_besideApp s).mono fun _ => receivePath_of_besideApp

theorem runCtrlOp_receivePath (s : State) : Ensures (runCtrlOp s) fun t => t.receivePath = s.receivePath := by
  unfold runCtrlOp
  split_ifs
  · exact exec_keeps_receivePath_of_format (by simp [decodeSetup_format]) s
  · exact slcResume_receivePath s
  · exact .next rfl

theorem runUsbOp_receivePath (s : State) : Ensures (runUsbOp s) fun t => t.receivePath = s.receivePath := by
  unfold runUsbOp
  split
  next => exact .next rfl
  next e rest _ =>
    split
    next i hi =>
      obtain rfl | rfl := decodeUsb_eq_ok hi
      · exact .next rfl
      · exact execSetup_receivePath e.uSetup (s.setPortU rest)
    next => exact .next rfl

theorem runRbOp_receivePath (s : State) : Ensures (runRbOp s) fun t => t.receivePath = s.receivePath := by
  unfold runRbOp
  split
  next => exact .next rfl
  next r ws _ =>
    split
    · exact exec_keeps_receivePath_of_format (by simp [decodeRb_format]) (s.setPortR ws)
    · exact .next rfl

/-! ### The dead endpoint (R255) -/

theorem receiveDead_iff : s.receiveDead = true ↔ s.receivePath = (.idle, [], false) ∧ s.pump.req = false := by
  simp only [State.receiveDead, State.receivePath, Bool.and_eq_true, beq_iff_eq, Bool.not_eq_true', List.isEmpty_iff, Prod.mk.injEq]
  tauto

/-- PUMP has no step in a state that asks for no pass. -/
theorem runPick_pump_of_unasked {p : Pick} (hp : p = .pumpOp ∨ p = .pumpMicro) (hidle : s.pump.phase = .idle)
    (hreq : s.pump.req = false) : runPick p s = .next s := by
  obtain rfl | rfl := hp
  · simp [runPick_pumpOp, execPump, hreq]
  · by_cases hc : s.ctl.phase = .waitFifo
    · exact pumpMicro_of_stall hc
    · exact (pumpMicro_of_idle hc hidle).trans (by simp [hreq])

/-- With the endpoint unreleased no packet arrives, and with no pass asked for none runs: nothing else writes the receive path. -/
theorem runPick_keeps_dead_receivePath {p : Pick} (hp : p ∉ [Pick.rst, .fire]) (hpath : s.receivePath = (.idle, [], false))
    (hreq : s.pump.req = false) : Ensures (runPick p s) fun t => t.receivePath = s.receivePath := by
  obtain ⟨hidle, -, hheld⟩ : s.pump.phase = .idle ∧ s.env.rxq = [] ∧ s.env.rxReleased = false := by
    simpa only [State.receivePath, Prod.mk.injEq] using hpath
  cases p with
  | appOp => exact runAppOp_receivePath s
  | appMicro => exact appMicro_receivePath s
  | pumpOp => exact runPick_pump_of_unasked (.inl rfl) hidle hreq ▸ .next rfl
  | pumpMicro => exact runPick_pump_of_unasked (.inr rfl) hidle hreq ▸ .next rfl
  | ctrlOp => exact runCtrlOp_receivePath s
  | ctrlMicro => exact (ctlMicro_besideCtrl s).mono fun _ => receivePath_of_besideCtrl
  | usbOp => exact runUsbOp_receivePath s
  | rbOp => exact runRbOp_receivePath s
  | presentUsb e =>
    obtain ⟨-, heq⟩ | ⟨-, heq⟩ := presentUsb_cases e s
    · exact .next (by rw [heq, arriveNext_of_held hheld])
    · exact .next (by rw [heq]; rfl)
  | packet => exact .next (by rw [arriveNext_of_held hheld])
  | pkt bs => exact .next (by rw [arrive_of_held hheld])
  | presentApp | presentRb | data | tick => exact .next rfl
  | fire | rst => simp at hp

/-- With the endpoint empty and unreleased each of the triggers of `pump_req` fails (R131). -/
theorem step_keeps_unasked (hport : PortInv s) (hstep : step s = .next t) (hpath : s.receivePath = (.idle, [], false))
    (hreq : s.pump.req = false) : t.pump.req = false := by
  obtain ⟨-, hempty, hheld⟩ : s.pump.phase = .idle ∧ s.env.rxq = [] ∧ s.env.rxReleased = false := by
    simpa only [State.receivePath, Prod.mk.injEq] using hpath
  cases step_reqMoves hport hstep with
  | keeps h => exact h.trans hreq
  | arrives _ hfree => exact absurd hfree (by simp [hheld])
  | reads _ _ hdata | triggers _ hdata => exact absurd hempty hdata
  | begins _ _ _ hclear | resets _ hclear => exact hclear

/-- Settles O33: no trigger of a pass works on such an endpoint, and without a pass or a packet nothing changes it. -/
theorem unreleasedEndpointStaysDead : Obligations.UnreleasedEndpointStaysDead := by
  intro s t hport hstep hdead hp
  obtain ⟨hpath, hreq⟩ := receiveDead_iff.mp hdead
  obtain ⟨d, hd, -⟩ := nextPick_frame s
  have hrun := (step_eq_next hstep).2
  rw [hd] at hrun
  have hkept : t.receivePath = s.receivePath := runPick_keeps_dead_receivePath hp (s := { s with drive := d }) hpath hreq t hrun
  exact receiveDead_iff.mpr ⟨hkept.trans hpath, step_keeps_unasked hport hstep hpath hreq⟩

end Sys2Proof.Machine
end

section
/-!
Proofs of the statements of 70_reset_and_hazards.md, last part: every enabled step makes the bound `work` smaller, and so the run to
quiescence ends (R245, R270).
-/

namespace Sys2Proof.Machine

variable {s t : State}

/-! ### The shares of the agents in the bound -/

/-- What the pass that is asked for adds to the bound. -/
def State.passWork (s : State) : Nat := if s.pump.req then 4 else 0

theorem passWork_le (s : State) : s.passWork ≤ 4 := by
  unfold State.passWork
  split <;> decide

/-- PUMP's share: the steps of its pass, the bytes it may still pull, and the pass asked for. -/
def State.pumpWork (s : State) : Nat := s.pump.phase.work + 5 * s.env.rxq.length + s.passWork

theorem work_eq (s : State) : s.work = s.ctl.phase.work + s.app.work + s.pumpWork +
    7 * s.ports.portU.length + 11 * s.ports.portA.length + s.ports.portR.length := by
  simp only [State.work, State.pumpWork, State.passWork]
  omega

theorem work_lt_of_besideCtrl (hbeside : t.besideCtrl = s.besideCtrl) (h : t.ctl.phase.work < s.ctl.phase.work) : t.work < s.work := by
  simp only [State.besideCtrl, State.receivePath, Prod.mk.injEq] at hbeside
  obtain ⟨⟨hphase, hrxq, -⟩, hreq, happ, hportA, hportU, hportR⟩ := hbeside
  simp only [State.work, hphase, hrxq, hreq, happ, hportA, hportU, hportR]
  omega

/-- APP may ask for a pass, at the price of four of its own steps. -/
theorem work_lt_of_besideApp (hbeside : t.besideApp = s.besideApp) (h : t.app.work + t.passWork < s.app.work + s.passWork) :
    t.work < s.work := by
  simp only [State.besideApp, State.receivePath, Prod.mk.injEq] at hbeside
  obtain ⟨⟨hphase, hrxq, -⟩, hctl, hportA, hportU, hportR⟩ := hbeside
  simp only [work_eq, State.pumpWork, hphase, hrxq, hctl, hportA, hportU, hportR]
  omega

theorem work_lt_of_pump (hctl : t.ctl = s.ctl) (happ : t.app = s.app) (hports : t.ports = s.ports) (h : t.pumpWork < s.pumpWork) :
    t.work < s.work := by
  simp only [work_eq, hctl, happ, hports]
  omega

theorem work_of_besideRing (h : t.besideRing = s.besideRing) : t.work = s.work := by
  simp only [State.besideRing, Prod.mk.injEq] at h
  obtain ⟨hctl, happ, hpump, henv, hportA, hportU, hportR⟩ := h
  simp only [State.work, hctl, happ, hpump, henv, hportA, hportU, hportR]

/-! ### CTRL -/

theorem firstLabel_work_lt (i : Instr) : (CtlPhase.dispatch (firstLabel i)).work < (CtlPhase.dispatch .t2).work := by
  cases i <;> simp [firstLabel, CtlPhase.work]

/-- Each micro-step of CTRL leads to a label with less to do; the wait of S2 does so where the data stage is there. -/
theorem ctlMicro_nears_idle (h : s.ctlEnabled = true) : Ensures (ctlMicro s) fun t => t.ctl.phase.work < s.ctl.phase.work := by
  unfold State.ctlEnabled at h
  cases hc : s.ctl.phase with
  | idle => simp [hc] at h
  | waitFifo =>
    have hdata : s.params.slcThreshold ≤ s.fifoByteCount := by simpa [hc] using h
    rw [ctlMicro_waitFifo hc, ctlS2_of_complete hdata]
    exact .next (by simp [CtlPhase.work])
  | dispatch l =>
    rw [ctlMicro_of_dispatch hc]
    cases l with
    | t2 => exact .next (firstLabel_work_lt _)
    | s3 =>
      intro t ht
      obtain ⟨d, q, -, rfl⟩ := ctlS3_eq_next ht
      simp [CtlPhase.work]
    | g1 | g2 | s1 | s4 | s5 | l1 | l2 | l3 | n1 =>
      exact .next (by simp [ctlG1, ctlS1, ctlS4, ctlL1, ctlL2, CtlPhase.work])

theorem ctlMicro_work_lt (h : s.ctlEnabled = true) : Ensures (ctlMicro s) fun t => t.work < s.work := fun t ht =>
  work_lt_of_besideCtrl (ctlMicro_besideCtrl s t ht) (ctlMicro_nears_idle h t ht)

/-! ### The words on the ports -/

theorem work_askPass_le (s : State) : s.askPass.work ≤ s.work + 4 := by
  have hpass := passWork_le s.askPass
  simp only [work_eq, State.pumpWork, State.askPass] at hpass ⊢
  omega

theorem work_ctlT1 (hc : s.ctl.phase = .idle) (q : SetupPacket) : (ctlT1 q s).work = s.work + 6 := by
  simp only [work_eq, State.pumpWork, State.passWork, ctlT1, State.setEnv, hc, CtlPhase.work]
  omega

theorem work_setPortU {rest : List UsbEvent} (h : s.ports.portU.length = rest.length + 1) : s.work = (s.setPortU rest).work + 7 := by
  simp only [work_eq, State.setPortU, State.pumpWork, State.passWork, h]
  omega

theorem work_setPortA {rest : List AppRequest} (h : s.ports.portA.length = rest.length + 1) : s.work = (s.setPortA rest).work + 11 := by
  simp only [work_eq, State.setPortA, State.pumpWork, State.passWork, h]
  omega

theorem work_setPortR {rest : List RbRequest} (h : s.ports.portR.length = rest.length + 1) : s.work = (s.setPortR rest).work + 1 := by
  simp only [work_eq, State.setPortR, State.pumpWork, State.passWork, h]
  omega

theorem uEv_of_decodeUsb_setup {e : UsbEvent} {q : SetupPacket} (h : decodeUsb e = .ok (.setup q)) : e.uEv = 0b10#2 := by
  obtain ⟨ev, packet⟩ := e
  obtain rfl | rfl | rfl | rfl := twoBit_cases ev <;> cases h
  rfl

/-- An event taken counts for more than the request, or the pass, that it begins. -/
theorem runUsbOp_work_lt (h : s.usbEnabled = true) : Ensures (runUsbOp s) fun t => t.work < s.work := by
  obtain ⟨⟨e, rest⟩, hfirst⟩ := Option.isSome_iff_exists.mp h
  obtain ⟨pre, post, hport, hrest, -, htake⟩ := firstTakeable_eq_some hfirst
  have hlength : s.ports.portU.length = rest.length + 1 := by
    simp [hport, hrest, Nat.add_assoc]
  have hwork := work_setPortU hlength
  simp only [runUsbOp, hfirst]
  split
  next i hi =>
    obtain rfl | rfl := decodeUsb_eq_ok hi
    · have hpass := work_askPass_le (s.setPortU rest)
      exact .next (by omega)
    · have hc : s.ctl.phase = .idle := by simpa [usbTakeable, uEv_of_decodeUsb_setup hi] using htake
      have hrequest := work_ctlT1 (s := s.setPortU rest) hc e.uSetup
      have haccept : exec (.setup e.uSetup) (s.setPortU rest) = .next (ctlT1 e.uSetup (s.setPortU rest)) := if_pos hc
      exact haccept ▸ .next (by omega)
  next => exact .next (by omega)

/-- A primitive taken begins nothing. -/
theorem runRbOp_work_lt (h : s.rbEnabled = true) : Ensures (runRbOp s) fun t => t.work < s.work := by
  unfold State.rbEnabled at h
  cases hport : s.ports.portR with
  | nil => simp [hport] at h
  | cons r ws =>
    have hready : rbReady r s = true := by simpa only [hport] using h
    have hwork : s.work = (s.setPortR ws).work + 1 := work_setPortR (by rw [hport]; rfl)
    rw [runRbOp_of_decode hready hport rfl]
    refine (exec_decodeRb_besideRing (s := s.setPortR ws) hready).mono fun t ht => ?_
    rw [hwork, work_of_besideRing ht]
    exact Nat.lt_succ_self _

/-! ### APP -/

theorem passWork_of_pump (h : t.pump = s.pump) : t.passWork = s.passWork := by simp only [State.passWork, h]

theorem add_passWork_lt {n : Nat} (hpump : t.pump = s.pump) (h : t.app.work < n) : t.app.work + t.passWork < n + s.passWork := by
  rw [passWork_of_pump hpump]
  omega

theorem appA1_nears_idle {i : Instr} (hi : i.format = .app) (s : State) :
    Ensures (appA1 i s) fun t => t.app.work < (AppPhase.taken i).work := by
  cases i with
  | peek | read => exact .next (by split <;> simp [AppPhase.work])
  | write => exact .withResult fun r u hu => .next (by simp [AppPhase.work])
  | isOpen => exact .next (by obtain h | h := isOpenA1_cases s <;> simp [h, AppPhase.work])
  | openPort | openCfg | closePort | avail | flush | getWerr | clrWerr | appReserved => exact .next (by simp [AppPhase.work])
  | _ => cases hi

/-- Each micro-step of a command leads to a label with less to do; A3 of READ pays for the pass that it may ask for. -/
theorem appNext_nears_idle (h : s.appEnabled = true) (hidle : s.app ≠ .idle) :
    Ensures (appNext s) fun t => t.app.work + t.passWork < s.app.work + s.passWork := by
  unfold State.appEnabled at h
  unfold appNext
  cases ha : s.app with
  | idle => contradiction
  | taken i =>
    have hi : i.format = .app := by
      simp only [ha, Bool.and_eq_true, beq_iff_eq] at h
      exact h.2
    exact fun t ht => add_passWork_lt (appA1_pump i s t ht) (appA1_nears_idle hi s t ht)
  | peekK2 => exact .withTailByte (add_passWork_lt rfl (by simp [AppPhase.work]))
  | readD2 => exact .withTailByte (add_passWork_lt rfl (by simp [AppPhase.work]))
  | readA2 r => cases r <;> exact .next (add_passWork_lt rfl (by simp [AppPhase.work]))
  | readA3 v =>
    have hpass := passWork_le (readTrigger s)
    have happ : ((readTrigger s).setApp (.readA4 v)).passWork = (readTrigger s).passWork := rfl
    exact .next (by simp only [happ, State.setApp_app, AppPhase.work]; omega)
  | writeA2 r =>
    obtain ⟨w, a, hw⟩ := writeResult_returns r s
    exact .next (hw ▸ add_passWork_lt rfl (by simp [AppPhase.work]))
  | isOpenA2 => exact .next (add_passWork_lt (sampleEarly_pump s) (by simp [isOpenA2, AppPhase.work]))
  | isOpenA4 t0 sample =>
    have hover : s.delayOver t0 s.params.settleMs = true := by
      simp only [ha, Bool.and_eq_true] at h
      exact h.2
    exact .next (isOpenA4_of_delayOver hover sample ▸ add_passWork_lt rfl (by simp [AppPhase.work]))
  | readD3 | readA4 | isOpenA3 => exact .next (add_passWork_lt rfl (by simp [isOpenA3, AppPhase.work]))

/-- A command taken counts for more than its first label. -/
theorem takeRequest_work_lt (ha : s.app = .idle) (hport : s.ports.portA ≠ []) :
    Ensures (takeRequest s fun i t => .next (t.setApp (.taken i))) fun t => t.work < s.work := fun t ht => by
  obtain ⟨hnone, -⟩ | ⟨r, ws, i, hcons, -, htake⟩ := takeRequest_eq_next ht
  · exact absurd hnone hport
  · cases htake
    have hwork : s.work = (s.setPortA ws).work + 11 := work_setPortA (by rw [hcons]; rfl)
    simp only [work_eq, State.pumpWork, State.passWork, State.setApp, State.setPortA, ha, AppPhase.work] at hwork ⊢
    omega

theorem appMicro_work_lt (h : s.appEnabled = true) : Ensures (appMicro s) fun t => t.work < s.work := by
  obtain ⟨hs, -⟩ := Bool.and_eq_true_iff.mp h
  rw [appMicro, if_neg (by simpa using hs)]
  split_ifs with ha
  · refine takeRequest_work_lt ha ?_
    simp only [State.appEnabled, ha, Bool.and_eq_true] at h
    simpa using h.2
  · exact fun t ht => work_lt_of_besideApp (appNext_besideApp s t ht) (appNext_nears_idle h ha t ht)

/-! ### PUMP -/

/-- A step within a pass, which the latch outlives. -/
theorem work_lt_of_label {l : PumpLabel} (hp : s.pump.phase = .run l) (hctl : t.ctl = s.ctl) (happ : t.app = s.app)
    (hports : t.ports = s.ports) (hreq : t.pump.req = s.pump.req)
    (h : t.pump.phase.work + 5 * t.env.rxq.length < (PumpPhase.run l).work + 5 * s.env.rxq.length) : t.work < s.work := by
  refine work_lt_of_pump hctl happ hports ?_
  simp only [State.pumpWork, State.passWork, hp, hreq]
  omega

/-- Each micro-step of a pass leads to a label with less to do; U3 pays with the byte that it pulls. -/
theorem pumpLabelStep_work_lt {l : PumpLabel} (hp : s.pump.phase = .run l) :
    Ensures (pumpLabelStep l s) fun t => t.work < s.work := by
  cases l with
  | u1 => exact .next (work_lt_of_label hp rfl rfl rfl rfl (by cases hf : s.full <;> simp [pumpU1, hf, PumpPhase.work]))
  | u2 =>
    refine .next ?_
    unfold pumpU2
    split <;> exact work_lt_of_label hp rfl rfl rfl rfl (by simp [State.releaseReceiveBuffer, PumpPhase.work])
  | u3 =>
    intro t ht
    obtain ⟨b, rest, hq, rfl⟩ := pumpU3_eq_next ht
    have hpulled : 5 + 5 * rest.length < 1 + 5 * s.env.rxq.length := by
      rw [hq, List.length_cons]
      omega
    exact work_lt_of_label hp rfl rfl rfl rfl hpulled
  | u4 =>
    intro t ht
    obtain ⟨-, rfl⟩ := pumpU4_eq_next ht
    exact work_lt_of_label hp rfl rfl rfl rfl (by simp [PumpPhase.work])
  | u5 | u6 => exact .next (work_lt_of_label hp rfl rfl rfl rfl (by simp [pumpU5, pumpU6, PumpPhase.work]))

/-- U0 pays for the pass with the request that it takes. -/
theorem pumpU0_pumpWork_lt (hp : s.pump.phase = .idle) (hreq : s.pump.req = true) : (pumpU0 s).pumpWork < s.pumpWork := by
  have hafter : (pumpU0 s).pumpWork = 3 + 5 * s.env.rxq.length := rfl
  have hbefore : s.pumpWork = 0 + 5 * s.env.rxq.length + 4 := by
    rw [State.pumpWork, State.passWork, hp, if_pos hreq]
    rfl
  omega

theorem pumpMicro_work_lt (h : s.pumpEnabled = true) : Ensures (pumpMicro s) fun t => t.work < s.work := by
  obtain ⟨hs, hpass⟩ := Bool.and_eq_true_iff.mp h
  have hc : s.ctl.phase ≠ .waitFifo := mt stall_iff.mpr (by simpa using hs)
  cases hp : s.pump.phase with
  | idle =>
    have hreq : s.pump.req = true := by simpa [hp] using hpass
    rw [pumpMicro_of_asked hc hp hreq]
    exact .next (work_lt_of_pump rfl rfl rfl (pumpU0_pumpWork_lt hp hreq))
  | run l =>
    rw [pumpMicro_of_run hc hp]
    exact pumpLabelStep_work_lt hp

/-! ### The run to quiescence -/

theorem runPick_work_lt {p : Pick} (h : s.enabled p = true) : Ensures (runPick p s) fun t => t.work < s.work := by
  cases p with
  | ctrlMicro => exact ctlMicro_work_lt h
  | usbOp => exact runUsbOp_work_lt h
  | appMicro => exact appMicro_work_lt h
  | rbOp => exact runRbOp_work_lt h
  | pumpMicro => exact pumpMicro_work_lt h
  | _ => cases h

theorem AppPhase.work_eq_zero {ph : AppPhase} (h : ph.work = 0) : ph = .idle := by
  cases ph with
  | idle => rfl
  | readA2 r => cases r <;> simp [AppPhase.work] at h
  | _ => simp [AppPhase.work] at h

theorem CtlPhase.work_eq_zero {ph : CtlPhase} (h : ph.work = 0) : ph = .idle := by
  cases ph with
  | idle => rfl
  | waitFifo => simp [CtlPhase.work] at h
  | dispatch l => cases l <;> simp [CtlPhase.work] at h

theorem PumpPhase.work_eq_zero {ph : PumpPhase} (h : ph.work = 0) : ph = .idle := by
  cases ph with
  | idle => rfl
  | run l => cases l <;> simp [PumpPhase.work] at h

theorem passWork_eq_zero (h : s.passWork = 0) : s.pump.req = false := by
  unfold State.passWork at h
  split at h
  next => cases h
  next hreq => simpa using hreq

/-- Where the bound is used up every agent is idle and no word stands on a port. -/
theorem enabled_eq_false_of_work_eq_zero (h : s.work = 0) (p : Pick) : s.enabled p = false := by
  obtain ⟨hctl, happ, hphase, hpass, hportU, hportA, hportR⟩ :
      s.ctl.phase.work = 0 ∧ s.app.work = 0 ∧ s.pump.phase.work = 0 ∧ s.passWork = 0 ∧ s.ports.portU.length = 0 ∧ s.ports.portA.length = 0 ∧ s.ports.portR.length = 0 := by
    simp only [work_eq, State.pumpWork] at h
    omega
  cases p with
  | ctrlMicro => simp only [State.enabled, State.ctlEnabled, CtlPhase.work_eq_zero hctl]
  | usbOp => simp [State.enabled, State.usbEnabled, List.length_eq_zero_iff.mp hportU, firstTakeable]
  | appMicro => simp [State.enabled, State.appEnabled, AppPhase.work_eq_zero happ, List.length_eq_zero_iff.mp hportA]
  | rbOp => simp only [State.enabled, State.rbEnabled, List.length_eq_zero_iff.mp hportR]
  | pumpMicro => simp [State.enabled, State.pumpEnabled, PumpPhase.work_eq_zero hphase, passWork_eq_zero hpass]
  | _ => rfl

/-- A run with as many steps to take as the bound says ends where none is enabled. -/
theorem settleFor_ends (n : Nat) : ∀ {s : State}, s.work ≤ n → Ensures (settleFor n s) fun t => ∀ p, t.enabled p = false := by
  induction n with
  | zero => exact fun h => .next (enabled_eq_false_of_work_eq_zero (Nat.le_zero.mp h))
  | succ n ih =>
    intro s h
    unfold settleFor
    split
    next hnone => exact .next (nextEnabled_eq_none.mp hnone)
    next p hp =>
      refine .andThen ((runPick_work_lt (nextEnabled_enabled hp)).mono fun u hu => ih ?_)
      exact Nat.le_of_lt_succ (hu.trans_le h)

/-- Settles O60: a step lowers the bound whichever agent takes it, and the run has as many steps to take as the bound says. -/
theorem settlingEnds : Obligations.SettlingEnds := fun s =>
  ⟨fun _ t hp ht => runPick_work_lt hp t ht, settleFor_ends s.work le_rfl⟩

end Sys2Proof.Machine
end
